-- ==== Sys2Proof/Word.lean ====
section
/-! DEFINITION. Word.lean: the widths of the block (00_scope.md R10, R11): 32-bit bus words, 256-bit operand and
result registers, bytes of the bus lanes. Every value is unsigned (R11). -/

namespace Sys2Proof

/-- A bus word or a 32-bit register (00_scope.md R10, "bus data width"). -/
abbrev Word := BitVec 32

/-- A field element, scalar or coordinate register (00_scope.md R10, "operand width"). -/
abbrev Wide := BitVec 256

/-- One byte lane of a word (20_memory.md R53). -/
abbrev Byte := BitVec 8

end Sys2Proof
end

