-- ==== Sys2Proof/Config.lean ====
section
/-! DEFINITION. Config.lean: what is fixed in the hardware: the curve constants (00_scope.md R3 to R7), the
identity of the interface (10_state.md R22) and the size of the register window (20_memory.md R46). -/

namespace Sys2Proof.Config

/-- The field prime, 2^256 - 2^32 - 977 (00_scope.md R4; PRESUMED by the spec itself, log 15). -/
def P : Nat := 0xFFFFFFFFFFFFFFFFFFFFFFFFFFFFFFFFFFFFFFFFFFFFFFFFFFFFFFFEFFFFFC2F

/-- The group order (00_scope.md R5; PRESUMED by the spec itself, log 15). -/
def N : Nat := 0xFFFFFFFFFFFFFFFFFFFFFFFFFFFFFFFEBAAEDCE6AF48A03BBFD25E8CD0364141

/-- The curve coefficient of `x` (00_scope.md R3). -/
def A : Nat := 0

/-- The constant coefficient of the curve (00_scope.md R3). -/
def B : Nat := 7

/-- The x coordinate of the base point (00_scope.md R6; PRESUMED by the spec itself, log 15). -/
def Gx : Nat := 0x79BE667EF9DCBBAC55A06295CE870B07029BFCDB2DCE28D959F2815B16F81798

/-- The y coordinate of the base point (00_scope.md R6; PRESUMED by the spec itself, log 15). -/
def Gy : Nat := 0x483ADA7726A3C4655DA4FBFC0E1108A8FD17B448A68554199C47D08FFB10D4B8

/-- The immutable configuration record of 00_scope.md R7. -/
structure CurveParams where
  A : Nat
  B : Nat
  P : Nat
  N : Nat
  Gx : Nat
  Gy : Nat
  deriving DecidableEq, Repr

/-- The only admitted instance of the record (00_scope.md R7; 93_implementation_defined.md F3). -/
def curve : CurveParams := ⟨A, B, P, N, Gx, Gy⟩

/-- The value of the ID register, "SK1" revision 1 (10_state.md R22). -/
def idValue : Word := 0x534B3101

/-- The size of the register window in bytes (20_memory.md R46). -/
def windowSize : Nat := 4096

end Sys2Proof.Config
end

