-- ==== Sys2Proof/Syntax.lean ====
section
/-! DEFINITION. Syntax.lean: the fifteen commands of the block (30_encoding.md R76, R87), one constructor per row of
spec/opcode_table.json, and the three fields of a command word (R73). A command carries no operand (R75). -/

namespace Sys2Proof

/-- The commands, in the order of the opcode table. The suffix `P` or `N` is the modulus (30_encoding.md R77, R87). -/
inductive Instr where
  | faddP
  | fsubP
  | fmulP
  | fredP
  | finvP
  | faddN
  | fsubN
  | fmulN
  | fredN
  | finvN
  | pchk
  | pdbl
  | padd
  | pmul
  | pmulg
  deriving DecidableEq, Repr

/-- The fields of a command word: `OP` (bits 3:0), `MOD` (bit 4), `RSVD` (bits 31:5) (30_encoding.md R73). -/
structure CmdFields where
  op   : BitVec 4
  mod  : BitVec 1
  rsvd : BitVec 27
  deriving DecidableEq, Repr

end Sys2Proof
end

