-- ==== Sys2Proof/WellFormed.lean ====
section
/-! DEFINITION. WellFormed.lean: which command fields are a legal command (30_encoding.md R78). `Instr` carries no
operand (R75), so each of its terms is a legal command; the four checks are on the fields of a command word. -/

namespace Sys2Proof

/-- R78, first check: `OP = 0x0` is illegal. -/
def CmdFields.opNotZero (f : CmdFields) : Bool := f.op != 0

/-- R78, second check: `OP` in 0xB to 0xF is reserved. -/
def CmdFields.opNotReserved (f : CmdFields) : Bool := decide (f.op.toNat ≤ 0xA)

/-- R78, third check: the reserved bits must be 0. -/
def CmdFields.rsvdZero (f : CmdFields) : Bool := f.rsvd == 0

/-- R77, R78, fourth check: a point command (OP 0x6 to 0xA) requires `MOD = 0`. -/
def CmdFields.modAllowed (f : CmdFields) : Bool :=
  f.mod == 0 || !(decide (0x6 ≤ f.op.toNat) && decide (f.op.toNat ≤ 0xA))

/-- The fields are those of a legal command word: none of the four conditions of R78 holds. -/
def CmdFields.wf (f : CmdFields) : Bool :=
  f.opNotZero && f.opNotReserved && f.rsvdZero && f.modAllowed

/-- Every command is well formed: it has no operand field that could be out of range (R75). -/
def Instr.wf (_ : Instr) : Bool := true

end Sys2Proof
end

