-- ==== Sys2Proof/Decode.lean ====
section
/-! DEFINITION. Decode.lean: the command decoder, total on every word and every byte list and rejecting by name
(30_encoding.md R73 to R81), and after it the encoder, from the table of R76 and R87. -/

namespace Sys2Proof

/-- Why a command word is illegal, one reason per condition of R78; `truncated` is a byte list that holds no whole
command word (a command has one length, R80). -/
inductive Illegal where
  | rsvdNotZero
  | opZero
  | opReserved
  | pointWithMod
  | truncated
  deriving DecidableEq, Repr

/-- What the decoder answers: a command, or ILLEGAL with its reason (30_encoding.md R81). -/
inductive Decoded where
  | command (i : Instr)
  | illegal (why : Illegal)
  deriving DecidableEq, Repr

/-- `OP = w[3:0]`, `MOD = w[4]`, `RSVD = w[31:5]` (30_encoding.md R74). -/
def splitWord (w : Word) : CmdFields :=
  ⟨w.extractLsb' 0 4, w.extractLsb' 4 1, w.extractLsb' 5 27⟩

/-- The word with the given fields, `RSVD`, `MOD`, `OP` from the most significant bit (30_encoding.md R73). -/
def joinWord (f : CmdFields) : Word := f.rsvd ++ f.mod ++ f.op

/-- A field command in its two forms: `MOD = 0` selects P, `MOD = 1` selects N (30_encoding.md R77). -/
def byModulus (mod : BitVec 1) (p n : Instr) : Decoded :=
  if mod = 0 then .command p else .command n

/-- A point command requires `MOD = 0` (30_encoding.md R77, R78). -/
def pointOnly (mod : BitVec 1) (i : Instr) : Decoded :=
  if mod = 0 then .command i else .illegal .pointWithMod

/-- The table of R76, an empty cell being ILLEGAL (30_encoding.md R81). -/
def lookupOp (op : BitVec 4) (mod : BitVec 1) : Decoded :=
  match op.toNat with
  | 0x1 => byModulus mod .faddP .faddN
  | 0x2 => byModulus mod .fsubP .fsubN
  | 0x3 => byModulus mod .fmulP .fmulN
  | 0x4 => byModulus mod .fredP .fredN
  | 0x5 => byModulus mod .finvP .finvN
  | 0x6 => pointOnly mod .pchk
  | 0x7 => pointOnly mod .pdbl
  | 0x8 => pointOnly mod .padd
  | 0x9 => pointOnly mod .pmul
  | 0xA => pointOnly mod .pmulg
  | 0x0 => .illegal .opZero
  | _   => .illegal .opReserved

/-- `if RSVD ≠ 0 then ILLEGAL else lookup(OP, MOD)` (30_encoding.md R81). -/
def decodeFields (f : CmdFields) : Decoded :=
  if f.rsvd = 0 then lookupOp f.op f.mod else .illegal .rsvdNotZero

/-- Decoding a command word (30_encoding.md R74, R81). -/
def decodeWord (w : Word) : Decoded := decodeFields (splitWord w)

/-- A word from its four byte lanes, lane 0 the least significant (20_memory.md R53). -/
def wordOfBytes (b0 b1 b2 b3 : Byte) : Word := b3 ++ b2 ++ b1 ++ b0

/-- Decoding the first command word of a byte list laid out in the lanes of R53, with the bytes after it. -/
def decodeBytes : List Byte → Decoded × List Byte
  | b0 :: b1 :: b2 :: b3 :: rest => (decodeWord (wordOfBytes b0 b1 b2 b3), rest)
  | bs => (.illegal .truncated, bs)

/-- The four byte lanes of a word, lane 0 first (20_memory.md R53). -/
def bytesOfWord (w : Word) : List Byte :=
  [w.extractLsb' 0 8, w.extractLsb' 8 8, w.extractLsb' 16 8, w.extractLsb' 24 8]

/-- The command word whose table bits are `w`: the row's `nbits` bits, every bit above them 0. -/
def tableWord (nbits w : Nat) : Word := BitVec.ofNat 32 (w % 2 ^ nbits)

/-- The instruction the decoder reads from an opcode-table word, laid out in the byte lanes of R53. -/
def decodeTableWord (nbits w : Nat) : Option Instr :=
  match (decodeBytes (bytesOfWord (tableWord nbits w))).1 with
  | .command i => some i
  | .illegal _ => none

/-! The encoder (30_encoding.md R76, R87). -/

/-- `OP` of a command (30_encoding.md R76). -/
def opOf : Instr → BitVec 4
  | .faddP => 0x1
  | .faddN => 0x1
  | .fsubP => 0x2
  | .fsubN => 0x2
  | .fmulP => 0x3
  | .fmulN => 0x3
  | .fredP => 0x4
  | .fredN => 0x4
  | .finvP => 0x5
  | .finvN => 0x5
  | .pchk  => 0x6
  | .pdbl  => 0x7
  | .padd  => 0x8
  | .pmul  => 0x9
  | .pmulg => 0xA

/-- `MOD` of a command: 1 for the commands modulo N (30_encoding.md R77, R87). -/
def modOf : Instr → BitVec 1
  | .faddP => 0
  | .faddN => 1
  | .fsubP => 0
  | .fsubN => 1
  | .fmulP => 0
  | .fmulN => 1
  | .fredP => 0
  | .fredN => 1
  | .finvP => 0
  | .finvN => 1
  | .pchk  => 0
  | .pdbl  => 0
  | .padd  => 0
  | .pmul  => 0
  | .pmulg => 0

/-- The fields of a command's word; `RSVD` is 0 (30_encoding.md R78). -/
def encodeFields (i : Instr) : CmdFields := ⟨opOf i, modOf i, 0⟩

/-- The command word of a command (30_encoding.md R87). -/
def encode (i : Instr) : Word := joinWord (encodeFields i)

end Sys2Proof
end

