-- ==== Sys2Proof/Machine/State.lean ====
section
/-! DEFINITION. Machine/State.lean: the whole state of the block (10_state.md R20 to R40), the inputs from outside it
that the step reads (20_memory.md R49, R64; 70_reset_and_hazards.md R151), the reasons a step can stop, and the state
right after reset (70_reset_and_hazards.md R151). -/

namespace Sys2Proof.Machine

/-- The engine state `ENG` (10_state.md R39): whether a command is in progress and which unit sequences it. -/
inductive Eng where
  | idle
  | runField
  | runPoint
  | runPmul
  deriving DecidableEq, Repr

/-- `W.phase`: which micro-step of the scalar engine comes next (10_state.md R38). -/
inductive Phase where
  | dbl
  | add
  deriving DecidableEq, Repr

/-- The error codes ERRCODE can hold; "no other value is ever held" (10_state.md R34; 60_exceptions.md R136).
`ErrCode.word` (Machine/Flags.lean) gives the number of each. -/
inductive ErrCode where
  | none
  | illegalCmd
  | range
  | notOnCurve
  | scalar
  | noInverse
  deriving DecidableEq, Repr

/-- The engine's private copy of the command and its operands, taken at acceptance (10_state.md R37). -/
structure Snapshot where
  op   : BitVec 4
  mod  : BitVec 1
  rsvd : BitVec 27
  a    : Wide
  b    : Wide
  c    : Wide
  d    : Wide
  k    : Wide
  inf1 : Bool
  inf2 : Bool
  deriving DecidableEq, Repr

/-- A point held in a working register: 256-bit `x`, 256-bit `y`, 1-bit `inf` (10_state.md R38). -/
structure PointReg where
  x   : Wide
  y   : Wide
  inf : Bool
  deriving DecidableEq, Repr

/-- The working registers of the scalar multiplication engine (10_state.md R38). `started` is the model's own bit:
PM_INIT of the command in progress has been done (42_scalar_mult.md R119; DEDUCED, log 1). -/
structure PmRegs where
  acc     : PointReg
  base    : PointReg
  idx     : BitVec 9
  phase   : Phase
  started : Bool
  deriving DecidableEq, Repr

/-- The seven 256-bit registers of the window (10_state.md R24, R26). -/
inductive WideReg where
  | opa
  | opb
  | opc
  | opd
  | opk
  | resX
  | resY
  deriving DecidableEq, Repr

/-- The names of the 32-bit registers and words of the window (10_state.md R21; 30_encoding.md R85). -/
inductive Reg where
  | id
  | cmd
  | status
  | errcode
  | irqEn
  | ptFlags
  | word (r : WideReg) (i : Fin 8)
  deriving DecidableEq, Repr

/-- The size of a host access: 1, 2 or 4 bytes (20_memory.md R49). -/
inductive AccessSize where
  | byte
  | half
  | word
  deriving DecidableEq, Repr

/-- One host access `(addr, size, is_write, wdata)` (20_memory.md R49). `addr` is the host address. -/
structure Transaction where
  addr    : Nat
  size    : AccessSize
  isWrite : Bool
  wdata   : Word
  deriving DecidableEq, Repr

/-- The block's answer to one access (20_memory.md R49 to R52): a read answered OKAY with its data, a write answered
OKAY, or ERROR (whose `rdata` is 0, R50). The spec gives a write's `rdata` no value, so `wrote` carries none (log 3). -/
inductive Answer where
  | read (rdata : Word)
  | wrote
  | error
  deriving DecidableEq, Repr

/-- The data operand of a host program's `wr`: an immediate or a host temporary (30_encoding.md R85). -/
inductive HostArg where
  | imm (v : Word)
  | temp (t : Nat)
  deriving DecidableEq, Repr

/-- The statements of the host notation (30_encoding.md R85). Temporaries and labels are numbers (log 11). -/
inductive HostStmt where
  | wr (r : Reg) (v : HostArg)
  | rd (r : Reg) (t : Nat)
  | bnz (t : Nat) (mask : Word) (target : Nat)
  | bz (t : Nat) (mask : Word) (target : Nat)
  | b (target : Nat)
  | halt
  deriving DecidableEq, Repr

/-- The host program, its next statement and its 32-bit temporaries (numbers rising, no entry 0; log 11). -/
structure HostState where
  prog  : List HostStmt
  pc    : Nat
  temps : List (Nat × Word)
  deriving DecidableEq, Repr

/-- Which agent moves next, or which input arrives (10_state.md R20; 20_memory.md R58, R59; DESIGN CHOICE, log 2):
the ENGINE, the host program, a transaction from any master, or an edge of the reset input. -/
inductive Turn where
  | engine
  | host
  | bus (t : Transaction)
  | resetAssert
  | resetRelease
  deriving DecidableEq, Repr

/-- The machine. The fields down to `pm` are the block's (10_state.md R20 to R39); `BUSY` and `irq` are functions of
them (Machine/Flags.lean) and ID is hard-wired (`Config.idValue`). The fields from `inReset` on are inputs of the block,
the platform's parameter, and the record of what the host got back. -/
structure State where
  /-- CMD (10_state.md R23). -/
  cmd : Word
  /-- STATUS.DONE (10_state.md R28). -/
  done : Bool
  /-- STATUS.ERR (10_state.md R29). -/
  err : Bool
  /-- STATUS.RINF (10_state.md R30). -/
  rinf : Bool
  /-- STATUS.ONCURVE (10_state.md R31). -/
  oncurve : Bool
  /-- STATUS.OVR (10_state.md R32). -/
  ovr : Bool
  /-- ERRCODE (10_state.md R34). -/
  errcode : ErrCode
  /-- IRQ_EN.DONE_IE (10_state.md R35). -/
  doneIe : Bool
  /-- PT_FLAGS.INF1 (10_state.md R36). -/
  inf1 : Bool
  /-- PT_FLAGS.INF2 (10_state.md R36). -/
  inf2 : Bool
  /-- OPA (10_state.md R24). -/
  opa : Wide
  /-- OPB (10_state.md R24). -/
  opb : Wide
  /-- OPC (10_state.md R24). -/
  opc : Wide
  /-- OPD (10_state.md R24). -/
  opd : Wide
  /-- OPK (10_state.md R24). -/
  opk : Wide
  /-- RES_X (10_state.md R26). -/
  resX : Wide
  /-- RES_Y (10_state.md R26). -/
  resY : Wide
  /-- ENG (10_state.md R39). -/
  eng : Eng
  /-- The snapshot registers W.op to W.inf2 (10_state.md R37). -/
  snap : Snapshot
  /-- The scalar engine's working registers (10_state.md R38). -/
  pm : PmRegs
  /-- The level of the reset input: true while it is asserted (70_reset_and_hazards.md R151, R154; log 7). -/
  inReset : Bool
  /-- BASE_ADDR / 4096, the platform's choice, never changed by a step (20_memory.md R46; DESIGN CHOICE, log 9). -/
  basePage : Nat
  /-- A bus ERROR has been answered: "recorded and never cleared" (60_exceptions.md R140; log 4). -/
  hostFault : Bool
  /-- The block's answers to the accesses so far, the newest first (20_memory.md R49; log 3). -/
  answers : List Answer
  /-- The turns still to come, the next one first (20_memory.md R58; log 2). -/
  turns : List Turn
  /-- The host program (30_encoding.md R85; log 11). -/
  host : HostState
  deriving DecidableEq, Repr

/-- What stops the machine. No command and no legal access in the window raises one (60_exceptions.md R131). -/
inductive Fault where
  /-- Raised by a bus access (a transaction, or a host program's `wr` or `rd`) while reset is asserted, which "a model
  gives ... no step" (70_reset_and_hazards.md R154; 93_implementation_defined.md F2). Safe. -/
  | accessDuringReset
  /-- Raised by a transaction whose address is outside the window: "The block answers no address outside the window"
  (20_memory.md R46). Safe. -/
  | outsideWindow
  deriving DecidableEq, Repr

/-- Why an instruction has no meaning. -/
inductive Refusal where
  /-- Raised by an arm of `exec` whose instruction has no meaning in the model; no arm does. Safe. -/
  | notModelled (mnemonic : String)
  deriving DecidableEq, Repr

/-- What every step and every meaning answers. -/
abbrev Result := Host.Outcome State Fault Refusal

/-- The snapshot registers after reset: unspecified and unobservable, "a model may reset it to 0"
(10_state.md R37; DESIGN CHOICE, log 8). -/
def Snapshot.reset : Snapshot :=
  { op := 0, mod := 0, rsvd := 0, a := 0, b := 0, c := 0, d := 0, k := 0, inf1 := false, inf2 := false }

/-- A point register after reset: unspecified and unobservable (10_state.md R38; DESIGN CHOICE, log 8). -/
def PointReg.reset : PointReg := { x := 0, y := 0, inf := false }

/-- The working registers after reset: unspecified and unobservable (10_state.md R38; DESIGN CHOICE, log 8). -/
def PmRegs.reset : PmRegs :=
  { acc := PointReg.reset, base := PointReg.reset, idx := 0, phase := .dbl, started := false }

/-- A host with no program (log 11). -/
def HostState.none : HostState := { prog := [], pc := 0, temps := [] }

/-- The machine right after reset (70_reset_and_hazards.md R151): every host-visible register at the value of
10_state.md R21, ENG IDLE, reset released; no fault recorded (R166), nothing pending, no host program, and BASE_ADDR 0
(DESIGN CHOICE, log 9). -/
def State.reset : State :=
  { cmd := 0, done := false, err := false, rinf := false, oncurve := false, ovr := false, errcode := .none,
    doneIe := false, inf1 := false, inf2 := false,
    opa := 0, opb := 0, opc := 0, opd := 0, opk := 0, resX := 0, resY := 0,
    eng := .idle, snap := Snapshot.reset, pm := PmRegs.reset,
    inReset := false, basePage := 0, hostFault := false, answers := [], turns := [], host := HostState.none }

end Sys2Proof.Machine
end

