-- ==== Sys2Proof/Machine/Flags.lean ====
section
/-! DEFINITION. Machine/Flags.lean: every flag computation: BUSY and irq as functions of the state (10_state.md R27,
R40), the STATUS, ERRCODE, IRQ_EN and PT_FLAGS words as they are read (20_memory.md R51), and the writes of STATUS, IRQ_EN
and PT_FLAGS (20_memory.md R52). -/

namespace Sys2Proof.Machine

/-- `BUSY = (ENG ≠ IDLE)` (10_state.md R27). -/
def State.busy (s : State) : Bool := s.eng != .idle

/-- `irq = IRQ_EN.DONE_IE ∧ STATUS.DONE` (10_state.md R40; 60_exceptions.md R139). -/
def State.irq (s : State) : Bool := s.doneIe && s.done

/-- The numbers of the error codes (60_exceptions.md R136). -/
def ErrCode.word : ErrCode → Word
  | .none => 0x0
  | .illegalCmd => 0x1
  | .range => 0x2
  | .notOnCurve => 0x3
  | .scalar => 0x4
  | .noInverse => 0x5

/-- STATUS as it is read: `zext_32({OVR, ONCURVE, RINF, ERR, DONE, BUSY})` (20_memory.md R51). -/
def statusWord (s : State) : Word :=
  (BitVec.ofBool s.ovr ++ BitVec.ofBool s.oncurve ++ BitVec.ofBool s.rinf ++ BitVec.ofBool s.err
    ++ BitVec.ofBool s.done ++ BitVec.ofBool s.busy).setWidth 32

/-- IRQ_EN as it is read: `zext_32(IRQ_EN.DONE_IE)` (20_memory.md R51). -/
def irqEnWord (s : State) : Word := (BitVec.ofBool s.doneIe).setWidth 32

/-- PT_FLAGS as it is read: `zext_32({INF2, INF1})` (20_memory.md R51). -/
def ptFlagsWord (s : State) : Word := (BitVec.ofBool s.inf2 ++ BitVec.ofBool s.inf1).setWidth 32

/-- A host write of STATUS: bits 1, 2 and 5 clear DONE, ERR and OVR where they are 1; the others are ignored
(10_state.md R33; 20_memory.md R52). It is the acknowledgement of a completion (60_exceptions.md R143). -/
def writeStatus (s : State) (v : Word) : State :=
  { s with
    done := s.done && !v.getLsbD 1
    err := s.err && !v.getLsbD 2
    ovr := s.ovr && !v.getLsbD 5 }

/-- A host write of IRQ_EN: bit 0 only (20_memory.md R52). -/
def writeIrqEn (s : State) (v : Word) : State := { s with doneIe := v.getLsbD 0 }

/-- A host write of PT_FLAGS: bits 0 and 1 only (20_memory.md R52). -/
def writePtFlags (s : State) (v : Word) : State :=
  { s with inf1 := v.getLsbD 0, inf2 := v.getLsbD 1 }

/-- Where acceptance sends ENG, by `W.op` (10_state.md R39; 60_exceptions.md R132; DEDUCED for illegal words, log 10). -/
def engFor (op : BitVec 4) : Eng :=
  match op.toNat with
  | 0x1 => .runField
  | 0x2 => .runField
  | 0x3 => .runField
  | 0x4 => .runField
  | 0x5 => .runField
  | 0x9 => .runPmul
  | 0xA => .runPmul
  | _   => .runPoint

end Sys2Proof.Machine
end

