-- ==== Sys2Proof/Machine/Field.lean ====
section
/-! DEFINITION. Machine/Field.lean: the field functions of 40_field_arith.md R88, on integers, exact before they are
reduced (R95). The operands and results are naturals; the modulus is P or N. -/

namespace Sys2Proof.Machine

/-- `field_ok(v, m)` is `v < m` (00_scope.md R14). -/
def fieldOk (v m : Nat) : Bool := decide (v < m)

/-- `f_add(a, b, m) = (a + b) mod m` (40_field_arith.md R88). -/
def fAdd (a b m : Nat) : Nat := (a + b) % m

/-- `f_sub(a, b, m) = (a - b) mod m`, the representative in `[0, m)` of the integer difference
(40_field_arith.md R88; 00_scope.md R12). -/
def fSub (a b m : Nat) : Nat := (((a : Int) - (b : Int)) % (m : Int)).toNat

/-- `f_mul(a, b, m) = (a * b) mod m` (40_field_arith.md R88). -/
def fMul (a b m : Nat) : Nat := (a * b) % m

/-- `f_red(v, m) = v mod m`, for `v` below 2^512 (40_field_arith.md R88). -/
def fRed (v m : Nat) : Nat := v % m

/-- One run of extended Euclid modulo `m`, by fuel: `t0` and `t1` are the multiples of the first operand that give
`r0` and `r1` modulo `m`; the answer is the multiple that gives the last nonzero remainder. -/
def euclidLoop (m : Nat) : Nat → Nat → Nat → Nat → Nat → Nat
  | 0, _, _, t0, _ => t0
  | fuel + 1, r0, r1, t0, t1 =>
    if r1 = 0 then t0
    else euclidLoop m fuel r1 (r0 % r1) t1 (fSub t0 (r0 / r1 * t1) m)

/-- Enough fuel for operands below 2^256: the product of two remainders in a row at least halves at each turn. -/
def euclidFuel : Nat := 512

/-- `f_inv(a, m) = inv_m(a)`, the unique `r` in `[1, m)` with `(a·r) mod m = 1` (40_field_arith.md R88;
00_scope.md R12), by extended Euclid, the source's method; any method gives the same `r` (D31, log 14). Used only where
`gcd(a, m) = 1`. -/
def fInv (a m : Nat) : Nat := euclidLoop m euclidFuel m a 0 1 % m

end Sys2Proof.Machine
end

