-- ==== Sys2Proof/Machine/Curve.lean ====
section
/-! DEFINITION. Machine/Curve.lean: the tagged points (00_scope.md R13), the curve equation and the operand checks
(41_curve_points.md R103), and the total point functions `dbl` and `add` (R105, R106), all modulo P (00_scope.md R15). -/

namespace Sys2Proof.Machine

open Sys2Proof.Config

/-- `CurvePoint = Affine(x,y) | Infinity` (00_scope.md R13). -/
inductive Point where
  | aff (x y : Nat)
  | inf
  deriving DecidableEq, Repr

/-- `neg(Aff(x, y)) = Aff(x, (P - y) mod P)`, `neg(INF) = INF` (00_scope.md R13). -/
def Point.neg : Point → Point
  | .inf => .inf
  | .aff x y => .aff x (fSub P y P)

/-- The base point G (00_scope.md R6). -/
def basePoint : Point := .aff Gx Gy

/-- `on_curve(x, y) = ((y * y) mod P = (x*x*x + A*x + B) mod P)` (41_curve_points.md R103). -/
def onCurve (x y : Nat) : Bool := decide ((y * y) % P = (x * x * x + A * x + B) % P)

/-- `range_ok(Q)`: INF, or both coordinates below P (41_curve_points.md R103). -/
def Point.rangeOk : Point → Bool
  | .inf => true
  | .aff x y => fieldOk x P && fieldOk y P

/-- `curve_ok(Q)`: INF, or on the curve (41_curve_points.md R103). -/
def Point.curveOk : Point → Bool
  | .inf => true
  | .aff x y => onCurve x y

/-- `check_points(Q1, ..., Qn)`: every range check before every curve check (41_curve_points.md R103;
60_exceptions.md R137). The answer is the error to raise, if any. -/
def checkPoints (qs : List Point) : Option ErrCode :=
  if qs.all Point.rangeOk then
    if qs.all Point.curveOk then none else some .notOnCurve
  else some .range

/-- The doubling function, total over the tagged points (41_curve_points.md R105). -/
def dbl : Point → Point
  | .inf => .inf
  | .aff x y =>
    if y = 0 then .inf
    else
      let lam := fMul (fAdd (fMul 3 (fMul x x P) P) A P) (fInv (fMul 2 y P) P) P
      let x3 := fSub (fMul lam lam P) (fMul 2 x P) P
      let y3 := fSub (fMul lam (fSub x x3 P) P) y P
      .aff x3 y3

/-- The addition function, total over the tagged points (41_curve_points.md R106). -/
def add : Point → Point → Point
  | .inf, q => q
  | .aff x1 y1, .inf => .aff x1 y1
  | .aff x1 y1, .aff x2 y2 =>
    if x1 = x2 ∧ y1 = y2 then dbl (.aff x1 y1)
    else if x1 = x2 then .inf
    else
      let lam := fMul (fSub y2 y1 P) (fInv (fSub x2 x1 P) P) P
      let x3 := fSub (fSub (fMul lam lam P) x1 P) x2 P
      let y3 := fSub (fMul lam (fSub x1 x3 P) P) y1 P
      .aff x3 y3

end Sys2Proof.Machine
end

