-- ==== Sys2Proof/Machine/Operands.lean ====
section
/-! DEFINITION. Machine/Operands.lean: every operand form: the words of a 256-bit register (20_memory.md R53), the
256-bit registers by name (10_state.md R24, R26), the operands a command takes from the snapshot (30_encoding.md R82,
R83) and points held in registers (10_state.md R38; 30_encoding.md R84). -/

namespace Sys2Proof.Machine

open Sys2Proof.Config

/-- `X.w[i] = X[32·i+31 : 32·i]` (20_memory.md R53). -/
def getWord (x : Wide) (i : Fin 8) : Word := x.extractLsb' (32 * i.val) 32

/-- The register `x` with its word `i` replaced by `v`; the other words are unchanged (10_state.md R24). -/
def setWord (x : Wide) (i : Fin 8) (v : Word) : Wide :=
  (x &&& ~~~((BitVec.allOnes 32).setWidth 256 <<< (32 * i.val))) ||| (v.setWidth 256 <<< (32 * i.val))

/-- `R[name]`: the value of a 256-bit register (00_scope.md R14). -/
def getWide (s : State) : WideReg → Wide
  | .opa => s.opa
  | .opb => s.opb
  | .opc => s.opc
  | .opd => s.opd
  | .opk => s.opk
  | .resX => s.resX
  | .resY => s.resY

/-- `R[name] <- v` for a host write: RES_X and RES_Y are read-only to the host (10_state.md R26; 20_memory.md R52). -/
def hostSetWide (s : State) (v : Wide) : WideReg → State
  | .opa => { s with opa := v }
  | .opb => { s with opb := v }
  | .opc => { s with opc := v }
  | .opd => { s with opd := v }
  | .opk => { s with opk := v }
  | .resX => s
  | .resY => s

/-- A point operand: INF when its flag is set, its coordinate registers then not being read (30_encoding.md R83). -/
def pointOperand (inf : Bool) (x y : Wide) : Point :=
  if inf then .inf else .aff x.toNat y.toNat

/-- `pt1 = INF if W.inf1 = 1 else Aff(W.a, W.b)` (30_encoding.md R83). -/
def Snapshot.pt1 (w : Snapshot) : Point := pointOperand w.inf1 w.a w.b

/-- `pt2 = INF if W.inf2 = 1 else Aff(W.c, W.d)` (30_encoding.md R83). -/
def Snapshot.pt2 (w : Snapshot) : Point := pointOperand w.inf2 w.c w.d

/-- The 512-bit input of FRED, `{W.b, W.a} = W.b · 2^256 + W.a` (30_encoding.md R82). -/
def Snapshot.fredInput (w : Snapshot) : Nat := w.b.toNat * 2 ^ 256 + w.a.toNat

/-- The scalar check of PMUL and PMULG: `1 ≤ k < N` (42_scalar_mult.md R117). -/
def scalarOk (k : Wide) : Bool := decide (k.toNat ≠ 0) && decide (k.toNat < N)

/-- A 256-bit register holding the number `v` (00_scope.md R14); every number written is below 2^256. -/
def wide (v : Nat) : Wide := BitVec.ofNat 256 v

/-- The point a working register holds (10_state.md R38). -/
def PointReg.point (r : PointReg) : Point := pointOperand r.inf r.x r.y

/-- A working register holding a point; INF is held with coordinates 0, as in 30_encoding.md R84 (log 18). -/
def PointReg.ofPoint : Point → PointReg
  | .inf => { x := 0, y := 0, inf := true }
  | .aff x y => { x := wide x, y := wide y, inf := false }

/-- `bitlen(k)`: the number of bits of `k` without leading zeros (00_scope.md R11), by fuel, at most 256 bits. -/
def bitlenLoop : Nat → Nat → Nat
  | 0, _ => 0
  | fuel + 1, k => if k = 0 then 0 else bitlenLoop fuel (k / 2) + 1

/-- `bitlen(k)` of a 256-bit value (00_scope.md R11). -/
def bitlen (k : Wide) : Nat := bitlenLoop 256 k.toNat

/-- `-1` in the 9-bit register `W.idx` (10_state.md R38). -/
def idxOver : BitVec 9 := 0x1FF

/-- `bitlen(W.k) - 2` in 9 bits, `-1` held as 0x1FF (42_scalar_mult.md R119; 10_state.md R38). -/
def firstIdx (k : Wide) : BitVec 9 := BitVec.ofNat 9 (bitlen k) - 2

end Sys2Proof.Machine
end

