-- ==== Sys2Proof/Machine/Ops.lean ====
section
/-! DEFINITION. Machine/Ops.lean: the shared operations: acceptance, overrun, the two completions (60_exceptions.md R132
to R135), reset (70_reset_and_hazards.md R151), the register map (10_state.md R21) and the bus access (20_memory.md R46
to R52). An error completion is this block's exception; it has no return but the acknowledgement (60_exceptions.md R143),
`writeStatus` in Machine/Flags.lean. -/

namespace Sys2Proof.Machine

open Sys2Proof.Config

/-! ## The command lifecycle -/

/-- `Accept(w)`: CMD and the snapshot are loaded, DONE, ERR and ERRCODE are cleared, ENG leaves IDLE
(60_exceptions.md R132). PM_INIT of the new command has not been done (log 1); the other working registers, open between
commands (93_implementation_defined.md V2), keep their values (DESIGN CHOICE, log 8). -/
def accept (s : State) (w : Word) : State :=
  let f := splitWord w
  { s with
    cmd := w
    snap := { op := f.op, mod := f.mod, rsvd := f.rsvd, a := s.opa, b := s.opb, c := s.opc, d := s.opd, k := s.opk,
              inf1 := s.inf1, inf2 := s.inf2 }
    done := false
    err := false
    errcode := .none
    eng := engFor f.op
    pm := { s.pm with started := false } }

/-- A CMD write while BUSY is dropped and sets OVR (60_exceptions.md R133). -/
def overrun (s : State) : State := { s with ovr := true }

/-- `complete_ok(rx, ry, rinf, oncurve)` (60_exceptions.md R134). The working registers, open between commands
(93_implementation_defined.md V2), keep their values (DESIGN CHOICE, log 8). -/
def completeOk (s : State) (rx ry : Wide) (rinf oncurve : Bool) : State :=
  { s with resX := rx, resY := ry, rinf := rinf, oncurve := oncurve, done := true, eng := .idle }

/-- `raise Error(code)`, the error completion: no result register changes (60_exceptions.md R135). The working registers,
open between commands (93_implementation_defined.md V2), keep their values (DESIGN CHOICE, log 8). -/
def raiseError (s : State) (code : ErrCode) : State :=
  { s with errcode := code, err := true, done := true, eng := .idle }

/-- The completion with a point result: `Aff(x, y)` or INF with coordinates 0 (30_encoding.md R84). -/
def completePoint (s : State) : Point → State
  | .inf => completeOk s 0 0 true false
  | .aff x y => completeOk s (wide x) (wide y) false false

/-- Every register of the block at its reset value and ENG IDLE (70_reset_and_hazards.md R151); the snapshot and working
registers at the values of log 8. A command in progress is abandoned (R152). What is outside the block stays. -/
def resetBlock (s : State) : State :=
  { State.reset with
    inReset := s.inReset, basePage := s.basePage, hostFault := s.hostFault, answers := s.answers, turns := s.turns,
    host := s.host }

/-- The command the engine runs, decoded from the snapshot (30_encoding.md R74). -/
def snapCommand (s : State) : Decoded := decodeFields ⟨s.snap.op, s.snap.mod, s.snap.rsvd⟩

/-! ## The register window -/

/-- `BASE_ADDR`, a multiple of 4096 (20_memory.md R46). -/
def State.baseAddr (s : State) : Nat := windowSize * s.basePage

/-- The offset of the first word of a 256-bit register (10_state.md R21). -/
def WideReg.offset : WideReg → Nat
  | .opa => 0x040
  | .opb => 0x060
  | .opc => 0x080
  | .opd => 0x0A0
  | .opk => 0x0C0
  | .resX => 0x0E0
  | .resY => 0x100

/-- The byte offset of a register; word `i` of a 256-bit register is at `o + 4·i` (10_state.md R21). -/
def Reg.offset : Reg → Nat
  | .id => 0x000
  | .cmd => 0x004
  | .status => 0x008
  | .errcode => 0x00C
  | .irqEn => 0x010
  | .ptFlags => 0x014
  | .word r i => r.offset + 4 * i.val

/-- Word `(off - o) / 4` of the 256-bit register whose first word is at `o` (20_memory.md R51). -/
def wordAt (r : WideReg) (off : Nat) : Reg := .word r (Fin.ofNat 8 ((off - r.offset) / 4))

/-- The register at an offset that is a multiple of 4; none where the offset is reserved (10_state.md R21;
20_memory.md R48, R51). -/
def regAt (off : Nat) : Option Reg :=
  if off = 0x000 then some .id
  else if off = 0x004 then some .cmd
  else if off = 0x008 then some .status
  else if off = 0x00C then some .errcode
  else if off = 0x010 then some .irqEn
  else if off = 0x014 then some .ptFlags
  else if 0x040 ≤ off ∧ off ≤ 0x05C then some (wordAt .opa off)
  else if 0x060 ≤ off ∧ off ≤ 0x07C then some (wordAt .opb off)
  else if 0x080 ≤ off ∧ off ≤ 0x09C then some (wordAt .opc off)
  else if 0x0A0 ≤ off ∧ off ≤ 0x0BC then some (wordAt .opd off)
  else if 0x0C0 ≤ off ∧ off ≤ 0x0DC then some (wordAt .opk off)
  else if 0x0E0 ≤ off ∧ off ≤ 0x0FC then some (wordAt .resX off)
  else if 0x100 ≤ off ∧ off ≤ 0x11C then some (wordAt .resY off)
  else none

/-- What a legal read of a register returns; a read changes nothing (20_memory.md R51). -/
def readReg (s : State) : Reg → Word
  | .id => idValue
  | .cmd => s.cmd
  | .status => statusWord s
  | .errcode => s.errcode.word
  | .irqEn => irqEnWord s
  | .ptFlags => ptFlagsWord s
  | .word r i => getWord (getWide s r) i

/-- What a legal read at an offset returns; a reserved offset reads as 0 (20_memory.md R48, R51). -/
def readOff (s : State) (off : Nat) : Word :=
  match regAt off with
  | some r => readReg s r
  | none => 0

/-- What a legal write of a register does (20_memory.md R52). -/
def writeReg (s : State) (v : Word) : Reg → State
  | .id => s
  | .cmd => if s.busy then overrun s else accept s v
  | .status => writeStatus s v
  | .errcode => s
  | .irqEn => writeIrqEn s v
  | .ptFlags => writePtFlags s v
  | .word r i => hostSetWide s (setWord (getWide s r) i v) r

/-- What a legal write at an offset does; a write to a reserved offset is ignored (20_memory.md R48, R52). -/
def writeOff (s : State) (off : Nat) (v : Word) : State :=
  match regAt off with
  | some r => writeReg s v r
  | none => s

/-- A transaction is legal exactly when `size = 4` and `off mod 4 = 0` (20_memory.md R50). -/
def legalAccess (size : AccessSize) (off : Nat) : Bool := size == .word && off % 4 == 0

/-- The answer to the host, recorded (20_memory.md R49; log 3). -/
def pushAnswer (s : State) (a : Answer) : State := { s with answers := a :: s.answers }

/-- An illegal transaction: answered ERROR, no state of the block changes, a host fault is recorded and never cleared
(20_memory.md R50; 60_exceptions.md R140; log 4). -/
def illegalAccess (s : State) : State := { pushAnswer s .error with hostFault := true }

/-- One transaction whose address has offset `off` in the window (20_memory.md R50 to R52). -/
def windowAccess (s : State) (t : Transaction) (off : Nat) : State :=
  if legalAccess t.size off then
    if t.isWrite then pushAnswer (writeOff s off t.wdata) .wrote
    else pushAnswer s (.read (readOff s off))
  else illegalAccess s

/-- One host access (20_memory.md R46, R49). None is accepted while reset is asserted (70_reset_and_hazards.md R154,
log 6), and the block answers no address outside the window (20_memory.md R46, log 5). -/
def busAccess (t : Transaction) (s : State) : Result :=
  if s.inReset then .fault .accessDuringReset
  else if s.baseAddr ≤ t.addr ∧ t.addr < s.baseAddr + windowSize then
    .next (windowAccess s t (t.addr - s.baseAddr))
  else .fault .outsideWindow

end Sys2Proof.Machine
end

