-- ==== Sys2Proof/Machine/FieldCmds.lean ====
section
/-! DEFINITION. Machine/FieldCmds.lean: the completion steps of the field commands (40_field_arith.md R89 to R94). Each
reads only the snapshot (10_state.md R37) and ends in one completion (60_exceptions.md R134, R135). -/

namespace Sys2Proof.Machine

open Sys2Proof.Config

/-- The completion of a field command: `complete_ok(rx = c, ry = 0, rinf = 0, oncurve = 0)` (40_field_arith.md R89). -/
def completeField (s : State) (c : Nat) : State := completeOk s (wide c) 0 false false

/-- The shape of FADD, FSUB and FMUL: both operands in range, else E_RANGE (40_field_arith.md R89 to R92). -/
def fieldBinary (f : Nat → Nat → Nat → Nat) (m : Nat) (s : State) : Result :=
  if fieldOk s.snap.a.toNat m && fieldOk s.snap.b.toNat m then
    .next (completeField s (f s.snap.a.toNat s.snap.b.toNat m))
  else .next (raiseError s .range)

/-- FMUL's result: the exact product, then the reducer (40_field_arith.md R92). -/
def mulThenReduce (a b m : Nat) : Nat := fRed (a * b) m

/-- The shape of FRED: no range check (40_field_arith.md R93). -/
def fieldReduce (m : Nat) (s : State) : Result := .next (completeField s (fRed s.snap.fredInput m))

/-- The shape of FINV: range first, then the existence of an inverse (40_field_arith.md R94; 60_exceptions.md R137). -/
def fieldInverse (m : Nat) (s : State) : Result :=
  if fieldOk s.snap.a.toNat m then
    if Nat.gcd s.snap.a.toNat m = 1 then .next (completeField s (fInv s.snap.a.toNat m))
    else .next (raiseError s .noInverse)
  else .next (raiseError s .range)

/-- `fadd.p` (40_field_arith.md R90). -/
def execFaddP (s : State) : Result := fieldBinary fAdd P s

/-- `fsub.p` (40_field_arith.md R91). -/
def execFsubP (s : State) : Result := fieldBinary fSub P s

/-- `fmul.p` (40_field_arith.md R92). -/
def execFmulP (s : State) : Result := fieldBinary mulThenReduce P s

/-- `fred.p` (40_field_arith.md R93). -/
def execFredP (s : State) : Result := fieldReduce P s

/-- `finv.p` (40_field_arith.md R94). -/
def execFinvP (s : State) : Result := fieldInverse P s

/-- `fadd.n` (40_field_arith.md R90). -/
def execFaddN (s : State) : Result := fieldBinary fAdd N s

/-- `fsub.n` (40_field_arith.md R91). -/
def execFsubN (s : State) : Result := fieldBinary fSub N s

/-- `fmul.n` (40_field_arith.md R92). -/
def execFmulN (s : State) : Result := fieldBinary mulThenReduce N s

/-- `fred.n` (40_field_arith.md R93). -/
def execFredN (s : State) : Result := fieldReduce N s

/-- `finv.n` (40_field_arith.md R94). -/
def execFinvN (s : State) : Result := fieldInverse N s

end Sys2Proof.Machine
end

