-- ==== Sys2Proof/Machine/PointCmds.lean ====
section
/-! DEFINITION. Machine/PointCmds.lean: the completion steps of the point commands (41_curve_points.md R104, R107,
R108). Each reads only the snapshot (10_state.md R37). -/

namespace Sys2Proof.Machine

/-- PCHK's completion: the verdict in RES_X and ONCURVE (41_curve_points.md R104). -/
def completeCheck (s : State) (v : Bool) : State := completeOk s (if v then 1 else 0) 0 false v

/-- The shape of the commands that check their points before they compute (41_curve_points.md R103). -/
def withPoints (s : State) (qs : List Point) (run : State → State) : Result :=
  match checkPoints qs with
  | some code => .next (raiseError s code)
  | none => .next (run s)

/-- `pchk`: INF is a point; an affine point is range-checked, then tested (41_curve_points.md R104). -/
def execPchk (s : State) : Result :=
  if s.snap.pt1.rangeOk then .next (completeCheck s s.snap.pt1.curveOk)
  else .next (raiseError s .range)

/-- `pdbl` (41_curve_points.md R107). -/
def execPdbl (s : State) : Result :=
  withPoints s [s.snap.pt1] fun s => completePoint s (dbl s.snap.pt1)

/-- `padd` (41_curve_points.md R108). -/
def execPadd (s : State) : Result :=
  withPoints s [s.snap.pt1, s.snap.pt2] fun s => completePoint s (add s.snap.pt1 s.snap.pt2)

end Sys2Proof.Machine
end

