-- ==== Sys2Proof/Machine/ScalarCmds.lean ====
section
/-! DEFINITION. Machine/ScalarCmds.lean: the scalar multiplication engine (42_scalar_mult.md R117 to R125): one ENGINE
step for the checks and PM_INIT, one for each doubling or addition, one for the finish (log 1). -/

namespace Sys2Proof.Machine

open Sys2Proof.Config

/-- `PM_INIT(base)` (42_scalar_mult.md R119). -/
def pmInit (s : State) (base : Point) : State :=
  { s with
    pm := { base := PointReg.ofPoint base, acc := PointReg.ofPoint base, idx := firstIdx s.snap.k, phase := .dbl,
            started := true } }

/-- The doubling micro-step (42_scalar_mult.md R120). -/
def pmDouble (s : State) : State :=
  let acc := PointReg.ofPoint (dbl s.pm.acc.point)
  if s.snap.k.getLsbD s.pm.idx.toNat then { s with pm := { s.pm with acc := acc, phase := .add } }
  else { s with pm := { s.pm with acc := acc, idx := s.pm.idx - 1 } }

/-- The addition micro-step (42_scalar_mult.md R121). -/
def pmAdd (s : State) : State :=
  { s with
    pm := { s.pm with
            acc := PointReg.ofPoint (add s.pm.acc.point s.pm.base.point), idx := s.pm.idx - 1, phase := .dbl } }

/-- The finish (42_scalar_mult.md R122). -/
def pmFinish (s : State) : State := completePoint s s.pm.acc.point

/-- The engine step after PM_INIT: a micro-step by `W.phase` while `W.idx ≥ 0`, then the finish
(42_scalar_mult.md R120 to R122). `W.idx` is -1 exactly when it holds 0x1FF (10_state.md R38, log 13). -/
def pmStep (s : State) : State :=
  if s.pm.idx = idxOver then pmFinish s
  else match s.pm.phase with
    | .dbl => pmDouble s
    | .add => pmAdd s

/-- The first engine step: the scalar check, then the point checks, then PM_INIT (42_scalar_mult.md R117, R119, R124;
60_exceptions.md R137). -/
def pmStart (s : State) (base : Point) (checked : List Point) : Result :=
  if scalarOk s.snap.k then withPoints s checked fun s => pmInit s base
  else .next (raiseError s .scalar)

/-- `pmul` (42_scalar_mult.md R124). -/
def execPmul (s : State) : Result :=
  if s.pm.started then .next (pmStep s) else pmStart s s.snap.pt1 [s.snap.pt1]

/-- `pmulg`: the base is the hardwired G and needs no point check (42_scalar_mult.md R125). -/
def execPmulg (s : State) : Result :=
  if s.pm.started then .next (pmStep s) else pmStart s basePoint []

end Sys2Proof.Machine
end

