-- ==== Sys2Proof/Machine/Dispatch.lean ====
section
/-! DEFINITION. Machine/Dispatch.lean: the meaning of each command: the next ENGINE step of that command, from the
snapshot and the working registers (10_state.md R20; 30_encoding.md R76). -/

namespace Sys2Proof.Machine

def exec (i : Instr) (s : State) : Host.Outcome State Fault Refusal :=
  match i with
  -- field commands, modulo P (40_field_arith.md)
  | .faddP => Sys2Proof.Machine.execFaddP s
  | .fsubP => Sys2Proof.Machine.execFsubP s
  | .fmulP => Sys2Proof.Machine.execFmulP s
  | .fredP => Sys2Proof.Machine.execFredP s
  | .finvP => Sys2Proof.Machine.execFinvP s
  -- field commands, modulo N (40_field_arith.md)
  | .faddN => Sys2Proof.Machine.execFaddN s
  | .fsubN => Sys2Proof.Machine.execFsubN s
  | .fmulN => Sys2Proof.Machine.execFmulN s
  | .fredN => Sys2Proof.Machine.execFredN s
  | .finvN => Sys2Proof.Machine.execFinvN s
  -- point commands (41_curve_points.md)
  | .pchk => Sys2Proof.Machine.execPchk s
  | .pdbl => Sys2Proof.Machine.execPdbl s
  | .padd => Sys2Proof.Machine.execPadd s
  -- the scalar multiplication engine (42_scalar_mult.md)
  | .pmul => Sys2Proof.Machine.execPmul s
  | .pmulg => Sys2Proof.Machine.execPmulg s

end Sys2Proof.Machine
end

