-- ==== Sys2Proof/Machine/HostProgram.lean ====
section
/-! DEFINITION. Machine/HostProgram.lean: the host agent of the spec's notation (30_encoding.md R85, R86): one statement
a step, every access a legal bus transaction. The encoding of temporaries and labels is the model's (log 11). -/

namespace Sys2Proof.Machine

/-- The value of temporary `t`; one never written reads as 0 (log 11). -/
def tempGet : List (Nat × Word) → Nat → Word
  | [], _ => 0
  | (k, v) :: rest, t => if k = t then v else tempGet rest t

/-- The front of a temporary list with temporary `t` set to `v`: no entry when `v` is 0. -/
def tempCons (t : Nat) (v : Word) (rest : List (Nat × Word)) : List (Nat × Word) :=
  if v = 0 then rest else (t, v) :: rest

/-- Setting temporary `t`, keeping the numbers rising and no entry 0. -/
def tempSet : List (Nat × Word) → Nat → Word → List (Nat × Word)
  | [], t, v => tempCons t v []
  | (k, w) :: rest, t, v =>
    if t < k then tempCons t v ((k, w) :: rest)
    else if t = k then tempCons t v rest
    else (k, w) :: tempSet rest t v

/-- The canonical form of the temporaries: numbers rising from `lo`, no entry 0. -/
def tempsWfFrom (lo : Nat) : List (Nat × Word) → Bool
  | [] => true
  | (k, v) :: rest => decide (lo ≤ k) && v != 0 && tempsWfFrom (k + 1) rest

/-- The canonical form of the temporaries. -/
def tempsWf (ts : List (Nat × Word)) : Bool := tempsWfFrom 0 ts

/-- The value of a `wr` operand (30_encoding.md R85). -/
def argValue (h : HostState) : HostArg → Word
  | .imm v => v
  | .temp t => tempGet h.temps t

/-- `wr REG, v` is one legal bus write (30_encoding.md R85). -/
def writeAccess (s : State) (r : Reg) (v : Word) : Transaction :=
  { addr := s.baseAddr + r.offset, size := .word, isWrite := true, wdata := v }

/-- `rd REG -> t` is one legal bus read; its `wdata` is not meaningful (30_encoding.md R85; 20_memory.md R49). -/
def readAccess (s : State) (r : Reg) : Transaction :=
  { addr := s.baseAddr + r.offset, size := .word, isWrite := false, wdata := 0 }

/-- The data of the newest answer; an ERROR has `rdata = 0` (20_memory.md R50). -/
def newestData (s : State) : Word :=
  match s.answers with
  | .read v :: _ => v
  | _ => 0

/-- The host goes to statement `pc`. -/
def goTo (s : State) (pc : Nat) : State := { s with host := { s.host with pc := pc } }

/-- The host's temporary `t` is set to `v`. -/
def setTemp (s : State) (t : Nat) (v : Word) : State :=
  { s with host := { s.host with temps := tempSet s.host.temps t v } }

/-- One statement of the host program (30_encoding.md R85). -/
def hostStmt (s : State) : HostStmt → Result
  | .wr r v =>
    match busAccess (writeAccess s r (argValue s.host v)) s with
    | .next s' => .next (goTo s' (s'.host.pc + 1))
    | .fault e => .fault e
    | .refused e => .refused e
  | .rd r t =>
    match busAccess (readAccess s r) s with
    | .next s' => .next (goTo (setTemp s' t (newestData s')) (s'.host.pc + 1))
    | .fault e => .fault e
    | .refused e => .refused e
  | .bnz t mask target =>
    .next (goTo s (if tempGet s.host.temps t &&& mask ≠ 0 then target else s.host.pc + 1))
  | .bz t mask target =>
    .next (goTo s (if tempGet s.host.temps t &&& mask = 0 then target else s.host.pc + 1))
  | .b target => .next (goTo s target)
  | .halt => .next s

/-- The host program has halted: it stands at `halt`, or past its last statement (30_encoding.md R85; log 11). -/
def hostHalted (s : State) : Bool :=
  match s.host.prog[s.host.pc]? with
  | none => true
  | some .halt => true
  | some _ => false

/-- The host program's turn; a halted host makes no access (70_reset_and_hazards.md R165). -/
def hostStep (s : State) : Result :=
  match s.host.prog[s.host.pc]? with
  | none => .next s
  | some stmt => hostStmt s stmt

/-- The big-endian byte `j` of a 32-byte coordinate, as host software packs a register value (20_memory.md R54). -/
def beByte (x : Wide) (j : Fin 32) : Byte := x.extractLsb' (8 * (31 - j.val)) 8

/-! ## The pseudo-statements of 30_encoding.md R86 -/

/-- The eight word numbers, in increasing order (30_encoding.md R86). -/
def wordOrder : List (Fin 8) := [0, 1, 2, 3, 4, 5, 6, 7]

/-- `wr256 X, v` with an immediate: eight writes in increasing word order (30_encoding.md R86). -/
def wr256 (x : WideReg) (v : Wide) : List HostStmt :=
  wordOrder.map fun i => .wr (.word x i) (.imm (getWord v i))

/-- `wr256 X, t` with the 256-bit temporary whose words are the temporaries `t` to `t + 7` (30_encoding.md R86). -/
def wr256Temp (x : WideReg) (t : Nat) : List HostStmt :=
  wordOrder.map fun i => .wr (.word x i) (.temp (t + i.val))

/-- `rd256 X -> t`: eight reads in increasing word order (30_encoding.md R86). -/
def rd256 (x : WideReg) (t : Nat) : List HostStmt :=
  wordOrder.map fun i => .rd (.word x i) (t + i.val)

/-- `cmd MNEMONIC` is `wr CMD, word` (30_encoding.md R86, R87). -/
def cmdStmt (i : Instr) : HostStmt := .wr .cmd (.imm (encode i))

/-- `wait` at statement number `here`, polling into temporary `t` until BUSY is 0 (30_encoding.md R86). -/
def waitStmts (here t : Nat) : List HostStmt := [.rd .status t, .bnz t 0x1 here]

/-- `ack` is `wr STATUS, 0x26` (30_encoding.md R86). -/
def ackStmt : HostStmt := .wr .status (.imm 0x26)

end Sys2Proof.Machine
end

