-- ==== Sys2Proof/Machine/Engine.lean ====
section
/-! DEFINITION. Machine/Engine.lean: one ENGINE step (10_state.md R20), one turn of the machine (20_memory.md R58, R59;
logs 2 and 17), and how a command word is put where the engine reads it. -/

namespace Sys2Proof.Machine

/-- One ENGINE step: the next step of the command in the snapshot, or the error completion of an illegal word
(30_encoding.md R74, R78; 60_exceptions.md R137). There is none while ENG is IDLE or reset is asserted (10_state.md R20;
70_reset_and_hazards.md R152; log 17). -/
def engineStep (s : State) : Result :=
  if s.inReset || !s.busy then .next s
  else match snapCommand s with
    | .command i => exec i s
    | .illegal _ => .next (raiseError s .illegalCmd)

/-- The state with the schedule `ts` left (log 2). -/
def setTurns (s : State) (ts : List Turn) : State := { s with turns := ts }

/-- The state with the reset input at level `b` (70_reset_and_hazards.md R151). -/
def setReset (s : State) (b : Bool) : State := { s with inReset := b }

/-- One turn: an ENGINE step, a HOST step, or an edge of the reset input (10_state.md R20). -/
def runTurn (t : Turn) (s : State) : Result :=
  match t with
  | .engine => engineStep s
  | .host => hostStep s
  | .bus a => busAccess a s
  | .resetAssert => .next (setReset (resetBlock s) true)
  | .resetRelease => .next (setReset s false)

/-- The turn taken when none is given: a command in progress goes on (weak fairness, 70_reset_and_hazards.md R163),
else the host program does; while reset is asserted nothing moves (DESIGN CHOICE, log 2). -/
def defaultStep (s : State) : Result :=
  if s.inReset then .next s
  else if s.busy then engineStep s
  else hostStep s

/-- One step of the machine: the next turn of the schedule (20_memory.md R58, R59; log 2). -/
def machineStep (s : State) : Result :=
  match s.turns with
  | [] => defaultStep s
  | t :: rest => runTurn t (setTurns s rest)

/-- The state right after the acceptance of the command word `tableWord nbits w`, with the engine's turn next and reset
released, whatever the state was (60_exceptions.md R132; log 16). -/
def placeCommand (s : State) (nbits w : Nat) : State :=
  setTurns (setReset (accept s (tableWord nbits w)) false) (.engine :: s.turns)

end Sys2Proof.Machine
end

