-- ==== Sys2Proof/Safety.lean ====
section
/-! DEFINITION. Safety.lean: the terms the statements use: a clean entry and the end of a run (70_reset_and_hazards.md
R165, R166), runs of the engine alone, the double-and-add fold (42_scalar_mult.md R118, R126), and the invariants of the
block that its rules imply. -/

namespace Sys2Proof.Machine

open Sys2Proof.Config

/-! ## Runs -/

/-- The clean-entry record: no fault recorded and nothing in flight (70_reset_and_hazards.md R166). R166 says nothing of
the reset input; that it is released is the model's part of the record (DESIGN CHOICE, log 7). -/
structure CleanEntry (s : State) : Prop where
  noFault  : s.hostFault = false
  released : s.inReset = false
  idle     : s.eng = .idle

/-- The end of a run: the host program has halted and ENG is IDLE (70_reset_and_hazards.md R165). -/
structure RunOver (s : State) : Prop where
  halted : hostHalted s = true
  idle   : s.eng = .idle

/-- `n` ENGINE steps in a row, stopping at a fault or a refusal. -/
def engineRun : Nat → State → Result
  | 0, s => .next s
  | n + 1, s =>
    match engineStep s with
    | .next s' => engineRun n s'
    | .fault e => .fault e
    | .refused e => .refused e

/-- The engine is about to take a step of command `i`: a command is in progress, reset is released and the snapshot
decodes to `i` (10_state.md R39; 30_encoding.md R74). -/
structure Running (s : State) (i : Instr) : Prop where
  released : s.inReset = false
  busy     : s.busy = true
  command  : snapCommand s = .command i

/-! ## The double-and-add fold -/

/-- A point with coordinates in range and on the curve, or INF: what `check_points` lets pass (41_curve_points.md
R103). -/
def Point.valid (q : Point) : Bool := q.rangeOk && q.curveOk

/-- The bits the engine scans, `k[n-2]` down to `k[0]` with `n = bitlen(k)` (42_scalar_mult.md R118). -/
def scannedBits (k : Wide) : List Bool :=
  (List.range (bitlen k - 1)).reverse.map fun i => k.getLsbD i

/-- One scanned bit: double, and add the base when the bit is 1 (42_scalar_mult.md R120, R121). -/
def scanBit (base : Point) (acc : Point) (bit : Bool) : Point :=
  if bit then add (dbl acc) base else dbl acc

/-- The result of the double-and-add over the bits of `k` (42_scalar_mult.md R118, R126). -/
def doubleAndAdd (k : Wide) (base : Point) : Point := (scannedBits k).foldl (scanBit base) base

/-- `popcount(k)`: the number of one bits (00_scope.md R11). -/
def popcount (k : Wide) : Nat := ((List.range 256).filter fun i => k.getLsbD i).length

/-- The base point of a scalar command: `pt1` for PMUL, G for PMULG (42_scalar_mult.md R119). -/
def scalarBase (w : Snapshot) : Instr → Point
  | .pmul => w.pt1
  | _ => basePoint

/-! ## Invariants -/

/-- What the status flags, ERRCODE, CMD and the result registers say of each other (10_state.md R23 to R39, R42): while
a command is in progress the flags are as acceptance left them and CMD is the accepted word; the results are those of a
successful completion. -/
structure StatusInv (s : State) : Prop where
  busyDone  : s.busy = true → s.done = false
  busyErr   : s.busy = true → s.err = false
  busyCode  : s.busy = true → s.errcode = .none
  busyEng   : s.busy = true → s.eng = engFor s.snap.op
  busyCmd   : s.busy = true → s.cmd = joinWord ⟨s.snap.op, s.snap.mod, s.snap.rsvd⟩
  errCode   : s.err = true → s.errcode ≠ .none
  infResult : s.rinf = true → s.resX = 0 ∧ s.resY = 0 ∧ s.oncurve = false
  onResult  : s.oncurve = true → s.resX = 1 ∧ s.resY = 0
  rangeX    : s.resX.toNat < P
  rangeY    : s.resY.toNat < P
  resetIdle : s.inReset = true → s.eng = .idle

/-- What the scalar engine's working registers hold once PM_INIT is done (10_state.md R38; 42_scalar_mult.md R117 to
R122): a legal scalar, points in range, an index of a bit still to scan or -1, and an addition only for a one bit. -/
structure ScalarInv (s : State) : Prop where
  scalar : s.busy = true → s.pm.started = true → scalarOk s.snap.k = true
  acc    : s.busy = true → s.pm.started = true → s.pm.acc.point.rangeOk = true
  base   : s.busy = true → s.pm.started = true → s.pm.base.point.rangeOk = true
  idx    : s.busy = true → s.pm.started = true → s.pm.idx = idxOver ∨ s.pm.idx.toNat + 2 ≤ bitlen s.snap.k
  phase  : s.busy = true → s.pm.started = true → s.pm.phase = .add →
    s.pm.idx ≠ idxOver ∧ s.snap.k.getLsbD s.pm.idx.toNat = true

/-- The working points are on the curve (41_curve_points.md R109). -/
structure CurveInv (s : State) : Prop where
  acc  : s.busy = true → s.pm.started = true → s.pm.acc.point.valid = true
  base : s.busy = true → s.pm.started = true → s.pm.base.point.valid = true

end Sys2Proof.Machine
end

