-- ==== Sys2Proof/Certificates/Slice0/Obligations.lean ====
section
/-! DEFINITION. Certificates/Slice0/Obligations.lean: the statements for the provers, from the numbered rules of spec/.
The next state of a successful completion is written out as 60_exceptions.md R134 gives it (RES_X, RES_Y, RINF, ONCURVE,
DONE, ENG and nothing else), that of an error completion as R135 does (ERRCODE, ERR, DONE, ENG and nothing else), so each
such equation is also the frame; of it, that the scalar engine's working registers keep their values through a completion is
the model's choice (93_implementation_defined.md V2 leaves them open between commands; DESIGN CHOICE, log 8). -/

namespace Sys2Proof

open Sys2Proof.Machine Sys2Proof.Config

/-! ## Terms of the statements -/

/-- The state after `complete_ok(rx, ry, rinf, oncurve)` (60_exceptions.md R134; the working registers by log 8). -/
def AfterSuccess (s : State) (rx ry : Nat) (rinf oncurve : Bool) : State :=
  { s with resX := BitVec.ofNat 256 rx, resY := BitVec.ofNat 256 ry, rinf := rinf, oncurve := oncurve, done := true,
           eng := .idle }

/-- The state after `raise Error(code)` (60_exceptions.md R135; the working registers by log 8). -/
def AfterError (s : State) (code : ErrCode) : State :=
  { s with errcode := code, err := true, done := true, eng := .idle }

/-- The operands of a field command as numbers (10_state.md R25). -/
abbrev opA (s : State) : Nat := s.snap.a.toNat
abbrev opB (s : State) : Nat := s.snap.b.toNat
abbrev opC (s : State) : Nat := s.snap.c.toNat
abbrev opD (s : State) : Nat := s.snap.d.toNat

/-- The curve equation `y² ≡ x³ + 7 (mod P)` (00_scope.md R3). -/
abbrev OnSecp (x y : Nat) : Prop := y * y % P = (x * x * x + 7) % P

/-- `(x3, y3)` is the third point of the line with slope `lam` through `(x1, y1)` and `(x2, y2)`, reflected: the
formulas of 41_curve_points.md R105 (with `x2 = x1`) and R106, without subtraction. -/
def LineResult (lam x1 y1 x2 x3 y3 : Nat) : Prop :=
  lam < P ∧ x3 < P ∧ y3 < P ∧ (x3 + x1 + x2) % P = lam * lam % P ∧ (y3 + y1) % P = lam * (x1 + (P - x3)) % P

/-- One legal word write at offset `off` of the window (30_encoding.md R85). -/
def wordWrite (s : State) (off : Nat) (v : Word) : Transaction := ⟨s.baseAddr + off, .word, true, v⟩

/-- One legal word read at offset `off` of the window, whatever its meaningless `wdata` (20_memory.md R49). -/
def wordRead (s : State) (off : Nat) (wdata : Word) : Transaction := ⟨s.baseAddr + off, .word, false, wdata⟩

/-- A bit as a number. -/
abbrev bit (b : Bool) : Nat := if b then 1 else 0

/-- The 256-bit registers by their names (10_state.md R24, R26). -/
def WideValue (s : State) : WideReg → Wide
  | .opa => s.opa
  | .opb => s.opb
  | .opc => s.opc
  | .opd => s.opd
  | .opk => s.opk
  | .resX => s.resX
  | .resY => s.resY

/-- The offset of each register, as the table of 10_state.md R21 has it. -/
def MapOffset : Reg → Nat
  | .id => 0x000
  | .cmd => 0x004
  | .status => 0x008
  | .errcode => 0x00C
  | .irqEn => 0x010
  | .ptFlags => 0x014
  | .word .opa i => 0x040 + 4 * i.val
  | .word .opb i => 0x060 + 4 * i.val
  | .word .opc i => 0x080 + 4 * i.val
  | .word .opd i => 0x0A0 + 4 * i.val
  | .word .opk i => 0x0C0 + 4 * i.val
  | .word .resX i => 0x0E0 + 4 * i.val
  | .word .resY i => 0x100 + 4 * i.val

/-- The value each register reads as (20_memory.md R51), by its number. -/
def ReadValue (s : State) : Reg → Nat
  | .id => 0x534B3101
  | .cmd => s.cmd.toNat
  | .status =>
    bit (s.eng != .idle) + 2 * bit s.done + 4 * bit s.err + 8 * bit s.rinf + 16 * bit s.oncurve + 32 * bit s.ovr
  | .errcode =>
    match s.errcode with
    | .none => 0
    | .illegalCmd => 1
    | .range => 2
    | .notOnCurve => 3
    | .scalar => 4
    | .noInverse => 5
  | .irqEn => bit s.doneIe
  | .ptFlags => bit s.inf1 + 2 * bit s.inf2
  | .word r i => (WideValue s r).toNat / 2 ^ (32 * i.val) % 2 ^ 32

/-- Every host-visible register at its reset value, ENG IDLE, and irq and BUSY 0 (70_reset_and_hazards.md R151). -/
structure RegistersReset (t : State) : Prop where
  cmd     : t.cmd = 0
  done    : t.done = false
  err     : t.err = false
  rinf    : t.rinf = false
  oncurve : t.oncurve = false
  ovr     : t.ovr = false
  errcode : t.errcode = .none
  doneIe  : t.doneIe = false
  inf1    : t.inf1 = false
  inf2    : t.inf2 = false
  wide    : ∀ x, WideValue t x = 0
  eng     : t.eng = .idle
  irq     : t.irq = false
  busy    : t.busy = false
  id      : ReadValue t .id = 0x534B3101

/-- A command word is illegal: the four conditions of 30_encoding.md R78 on its bits. -/
def IllegalWord (w : Word) : Prop :=
  let op := w.toNat % 16
  let mod := w.toNat / 16 % 2
  op = 0 ∨ 0xB ≤ op ∨ w.toNat / 32 ≠ 0 ∨ (0x6 ≤ op ∧ op ≤ 0xA ∧ mod = 1)

/-- The curve `y² = x³ + A·x + B` over the field of P elements (00_scope.md R3, R4). -/
def secp256k1 : WeierstrassCurve.Affine (ZMod P) :=
  { a₁ := 0, a₂ := 0, a₃ := 0, a₄ := (A : ZMod P), a₆ := (B : ZMod P) }

/-- The block's tagged point for a point of the curve's group. -/
def pointOf : secp256k1.Point → Point
  | .zero => .inf
  | .some x y _ => .aff x.val y.val

end Sys2Proof

open Sys2Proof Sys2Proof.Machine Sys2Proof.Config

/-! ## The command word and the step -/

/-- 30_encoding.md R87: the fifteen command words, written out, decode to their commands and are what they encode to. -/
def Obligations.CommandWordsDecode : Prop :=
  (∀ p ∈ [(0x01#32, Instr.faddP), (0x02#32, .fsubP), (0x03#32, .fmulP), (0x04#32, .fredP), (0x05#32, .finvP),
      (0x11#32, .faddN), (0x12#32, .fsubN), (0x13#32, .fmulN), (0x14#32, .fredN), (0x15#32, .finvN),
      (0x06#32, .pchk), (0x07#32, .pdbl), (0x08#32, .padd), (0x09#32, .pmul), (0x0A#32, .pmulg)],
    decodeWord p.1 = .command p.2 ∧ encode p.2 = p.1)

/-- Decoding and encoding agree in both directions, for words and for the byte lanes of 20_memory.md R53. -/
def Obligations.DecodeInvertsEncode : Prop :=
  (∀ (i : Instr) (w : Word), decodeWord w = .command i ↔ w = encode i) ∧
    (∀ (i : Instr) (rest : List Byte), decodeBytes (bytesOfWord (encode i) ++ rest) = (.command i, rest)) ∧
    (∀ w : Word, decodeBytes (bytesOfWord w) = (decodeWord w, []))

/-- 30_encoding.md R78: which words are illegal; such a word is accepted like a legal one (BUSY set, the snapshot taken,
CMD latching the word), and its completion is an error completion with E_ILLEGAL_CMD that writes no result.
That the working registers keep their values is the model's (DESIGN CHOICE, log 8). -/
def Obligations.IllegalWordsCompleteWithIllegalCmd : Prop :=
  (∀ w : Word, IllegalWord w ↔ ∃ why, decodeWord w = .illegal why) ∧
    ∀ (s : State) (w : Word), s.inReset = false → s.busy = false → IllegalWord w →
      ∃ t, busAccess (wordWrite s 0x004 w) s = .next t ∧ t.busy = true ∧ t.cmd = w ∧
        t.snap = { op := BitVec.ofNat 4 w.toNat, mod := BitVec.ofNat 1 (w.toNat / 16),
                   rsvd := BitVec.ofNat 27 (w.toNat / 32), a := s.opa, b := s.opb, c := s.opc, d := s.opd, k := s.opk,
                   inf1 := s.inf1, inf2 := s.inf2 } ∧
        engineStep t = .next (AfterError t .illegalCmd)

/-- 30_encoding.md R74: a step at the engine's turn runs the command decoded from the snapshot, or completes an illegal
word with E_ILLEGAL_CMD (R78). What a step does at every other turn, and where none is given (10_state.md R20; the turns
and the order taken without one are the model's, logs 2 and 17; reset asserted is
`Obligations.ResetGivesEveryRegisterItsResetValue`).
That the working registers keep their values at a completion is the model's (DESIGN CHOICE, log 8). -/
def Obligations.StepRunsDecodedCommand : Prop :=
  (∀ (s : State) (i : Instr), Running s i →
    (s.turns = [] → step s = exec i s) ∧
      ∀ rest, s.turns = .engine :: rest → step s = exec i (setTurns s rest)) ∧
  (∀ (s : State) (why : Illegal), s.inReset = false → s.busy = true → snapCommand s = .illegal why →
    (s.turns = [] → step s = .next (AfterError s .illegalCmd)) ∧
      ∀ rest, s.turns = .engine :: rest → step s = .next (AfterError { s with turns := rest } .illegalCmd)) ∧
  (∀ (s : State) (rest : List Turn),
    (s.turns = .engine :: rest → s.inReset = true ∨ s.busy = false → step s = .next { s with turns := rest }) ∧
    (∀ a, s.turns = .bus a :: rest → step s = busAccess a { s with turns := rest }) ∧
    (s.turns = .host :: rest → step s = hostStep { s with turns := rest }) ∧
    (s.turns = .resetRelease :: rest → step s = .next { s with turns := rest, inReset := false })) ∧
  ∀ s : State, s.turns = [] →
    (s.inReset = true → step s = .next s) ∧ (s.inReset = false → s.busy = false → step s = hostStep s)

/-- The command placed by withFetchWord is what the very next step runs (log 16). -/
def Obligations.FetchWordRunsCommand : Prop :=
  ∀ (s : State) (i : Instr),
    step (s.withFetchWord 32 (encode i).toNat) = exec i (setReset (accept s (encode i)) false)

/-! ## The command lifecycle -/

/-- 60_exceptions.md R132: a legal CMD write while idle loads CMD and the snapshot, clears DONE, ERR and ERRCODE and
starts the engine; RES_X, RES_Y, RINF, ONCURVE, OVR and every other register are unchanged. The model's choices in it: ENG
for an illegal word, by OP alone (DEDUCED, log 10; the words with RSVD not 0, and 0x19 and 0x1A, rest on it); the bit
`started` (DEDUCED, log 1); that the working registers keep their values (DESIGN CHOICE, log 8); the record of the answer
(DESIGN CHOICE, log 3). -/
def Obligations.CmdWriteWhileIdleIsAccepted : Prop :=
  ∀ (s : State) (w : Word), s.inReset = false → s.busy = false →
    busAccess (wordWrite s 0x004 w) s = .next
      { s with
        cmd := w
        snap := { op := BitVec.ofNat 4 w.toNat, mod := BitVec.ofNat 1 (w.toNat / 16),
                  rsvd := BitVec.ofNat 27 (w.toNat / 32), a := s.opa, b := s.opb, c := s.opc, d := s.opd, k := s.opk,
                  inf1 := s.inf1, inf2 := s.inf2 }
        done := false, err := false, errcode := .none
        eng := if 1 ≤ w.toNat % 16 ∧ w.toNat % 16 ≤ 5 then .runField
               else if w.toNat % 16 = 9 ∨ w.toNat % 16 = 10 then .runPmul else .runPoint
        pm := { s.pm with started := false }
        answers := .wrote :: s.answers }

/-- 60_exceptions.md R133: a legal CMD write while BUSY is dropped and changes nothing but OVR. The
record of the answer is the model's (DESIGN CHOICE, log 3). -/
def Obligations.CmdWriteWhileBusyOnlySetsOverrun : Prop :=
  ∀ (s : State) (w : Word), s.inReset = false → s.busy = true →
    busAccess (wordWrite s 0x004 w) s = .next { s with ovr := true, answers := .wrote :: s.answers }

/-- 10_state.md R20, 60_exceptions.md R131, R134, R135: every command's step answers a next state, which is a micro-step
of a scalar command (working registers only), a successful completion or an error completion, and nothing else.
That the working registers keep their values is the model's (DESIGN CHOICE, log 8). -/
def Obligations.EveryCommandStepIsMicroStepOrCompletion : Prop :=
  ∀ (i : Instr) (s : State), ∃ t, exec i s = .next t ∧
    (((i = .pmul ∨ i = .pmulg) ∧ ∃ pm, t = { s with pm := pm }) ∨
      (∃ rx ry rinf oncurve, t = AfterSuccess s rx ry rinf oncurve) ∨
      ∃ code, code ≠ ErrCode.none ∧ t = AfterError s code)

/-- 60_exceptions.md R136: the error codes each command can raise, and their numbers.
That the working registers keep their values at a completion is the model's (DESIGN CHOICE, log 8). -/
def Obligations.ErrorCodesOfEachCommand : Prop :=
  (∀ (i : Instr) (s : State) (code : ErrCode), s.err = false → exec i s = .next (AfterError s code) →
    match i with
    | .faddP | .fsubP | .fmulP | .faddN | .fsubN | .fmulN => code = .range
    | .fredP | .fredN => False
    | .finvP | .finvN => code = .range ∨ code = .noInverse
    | .pchk => code = .range
    | .pdbl | .padd => code = .range ∨ code = .notOnCurve
    | .pmul => code = .scalar ∨ code = .range ∨ code = .notOnCurve
    | .pmulg => code = .scalar) ∧
  [ErrCode.none, .illegalCmd, .range, .notOnCurve, .scalar, .noInverse].map ErrCode.word = [0, 1, 2, 3, 4, 5]

/-- 60_exceptions.md R137: the check order: the illegal word, then the scalar, then every range check, then every curve
check, then the inverse.
That the working registers keep their values is the model's (DESIGN CHOICE, log 8). -/
def Obligations.ChecksAreInOrder : Prop :=
  (∀ s why, s.inReset = false → s.busy = true → snapCommand s = .illegal why →
    engineStep s = .next (AfterError s .illegalCmd)) ∧
  (∀ s, s.pm.started = false → s.snap.k.toNat = 0 ∨ N ≤ s.snap.k.toNat →
    exec .pmul s = .next (AfterError s .scalar) ∧ exec .pmulg s = .next (AfterError s .scalar)) ∧
  (∀ s, s.pm.started = false → 1 ≤ s.snap.k.toNat → s.snap.k.toNat < N → s.snap.inf1 = false →
    (P ≤ opA s ∨ P ≤ opB s → exec .pmul s = .next (AfterError s .range)) ∧
    (opA s < P → opB s < P → ¬ OnSecp (opA s) (opB s) → exec .pmul s = .next (AfterError s .notOnCurve))) ∧
  (∀ s, s.snap.inf1 = false →
    (P ≤ opA s ∨ P ≤ opB s → exec .pdbl s = .next (AfterError s .range)) ∧
    (opA s < P → opB s < P → ¬ OnSecp (opA s) (opB s) → exec .pdbl s = .next (AfterError s .notOnCurve))) ∧
  (∀ s, (s.snap.inf1 = false ∧ (P ≤ opA s ∨ P ≤ opB s)) ∨ (s.snap.inf2 = false ∧ (P ≤ opC s ∨ P ≤ opD s)) →
    exec .padd s = .next (AfterError s .range)) ∧
  (∀ s, (s.snap.inf1 = true ∨ (opA s < P ∧ opB s < P)) → (s.snap.inf2 = true ∨ (opC s < P ∧ opD s < P)) →
    ((s.snap.inf1 = false ∧ ¬ OnSecp (opA s) (opB s)) ∨ (s.snap.inf2 = false ∧ ¬ OnSecp (opC s) (opD s))) →
    exec .padd s = .next (AfterError s .notOnCurve)) ∧
  (∀ s, (P ≤ opA s → exec .finvP s = .next (AfterError s .range)) ∧
    (N ≤ opA s → exec .finvN s = .next (AfterError s .range)))

/-! ## The field commands -/

/-- 40_field_arith.md R90: FADD.
That the working registers keep their values is the model's (DESIGN CHOICE, log 8). -/
def Obligations.FieldAdditionResult : Prop :=
  encode .faddP = 0x01 ∧ encode .faddN = 0x11 ∧
  ∀ p ∈ [(Instr.faddP, P), (.faddN, N)], ∀ s : State,
    (opA s < p.2 → opB s < p.2 → exec p.1 s = .next (AfterSuccess s ((opA s + opB s) % p.2) 0 false false)) ∧
    (p.2 ≤ opA s ∨ p.2 ≤ opB s → exec p.1 s = .next (AfterError s .range))

/-- 40_field_arith.md R91: FSUB, borrowing once when `a < b`.
That the working registers keep their values is the model's (DESIGN CHOICE, log 8). -/
def Obligations.FieldSubtractionResult : Prop :=
  encode .fsubP = 0x02 ∧ encode .fsubN = 0x12 ∧
  ∀ p ∈ [(Instr.fsubP, P), (.fsubN, N)], ∀ s : State,
    (opA s < p.2 → opB s < p.2 → exec p.1 s = .next (AfterSuccess s
      (if opB s ≤ opA s then opA s - opB s else opA s + p.2 - opB s) 0 false false)) ∧
    (p.2 ≤ opA s ∨ p.2 ≤ opB s → exec p.1 s = .next (AfterError s .range))

/-- 40_field_arith.md R92: FMUL, the exact product reduced.
That the working registers keep their values is the model's (DESIGN CHOICE, log 8). -/
def Obligations.FieldMultiplicationResult : Prop :=
  encode .fmulP = 0x03 ∧ encode .fmulN = 0x13 ∧
  ∀ p ∈ [(Instr.fmulP, P), (.fmulN, N)], ∀ s : State,
    (opA s < p.2 → opB s < p.2 → exec p.1 s = .next (AfterSuccess s (opA s * opB s % p.2) 0 false false)) ∧
    (p.2 ≤ opA s ∨ p.2 ≤ opB s → exec p.1 s = .next (AfterError s .range))

/-- 40_field_arith.md R93: FRED of the 512-bit value `{OPB, OPA}`, with no range check.
That the working registers keep their values is the model's (DESIGN CHOICE, log 8). -/
def Obligations.FieldReductionResult : Prop :=
  encode .fredP = 0x04 ∧ encode .fredN = 0x14 ∧
  ∀ p ∈ [(Instr.fredP, P), (.fredN, N)], ∀ s : State,
    exec p.1 s = .next (AfterSuccess s ((opB s * 2 ^ 256 + opA s) % p.2) 0 false false)

/-- 40_field_arith.md R94: FINV gives the unique inverse in `[1, M)` of every nonzero operand in range, E_NO_INVERSE for
exactly 0, E_RANGE for an operand not below M.
That the working registers keep their values is the model's (DESIGN CHOICE, log 8). -/
def Obligations.FieldInverseResult : Prop :=
  encode .finvP = 0x05 ∧ encode .finvN = 0x15 ∧
  ∀ p ∈ [(Instr.finvP, P), (.finvN, N)], ∀ s : State,
    (opA s ≠ 0 → opA s < p.2 →
      ∃ r, (1 ≤ r ∧ r < p.2 ∧ opA s * r % p.2 = 1) ∧
        (∀ r', 1 ≤ r' → r' < p.2 → opA s * r' % p.2 = 1 → r' = r) ∧
        exec p.1 s = .next (AfterSuccess s r 0 false false)) ∧
    (opA s = 0 → exec p.1 s = .next (AfterError s .noInverse)) ∧
    (p.2 ≤ opA s → exec p.1 s = .next (AfterError s .range))

/-- 40_field_arith.md R95: the laws of the field functions on operands in range. -/
def Obligations.FieldLaws : Prop :=
  ∀ m ∈ [P, N], ∀ a b c : Nat, a < m → b < m → c < m →
    fAdd a b m = fAdd b a m ∧ fMul a b m = fMul b a m ∧
    fAdd (fAdd a b m) c m = fAdd a (fAdd b c m) m ∧ fMul (fMul a b m) c m = fMul a (fMul b c m) m ∧
    fMul a (fAdd b c m) m = fAdd (fMul a b m) (fMul a c m) m ∧
    fSub a b m = fAdd a (fSub 0 b m) m ∧ (a ≠ 0 → fMul a (fInv a m) m = 1)

/-- 40_field_arith.md R96: an operand in `[N, P)` is in range for the commands modulo P, which compute with it, and
E_RANGE for the commands modulo N.
That the working registers keep their values is the model's (DESIGN CHOICE, log 8). -/
def Obligations.ModulusMisuseIsNotDetected : Prop :=
  ∀ s : State, N ≤ opA s → opA s < P → opB s < P →
    (∃ rx, exec .faddP s = .next (AfterSuccess s rx 0 false false)) ∧
    (∃ rx, exec .fsubP s = .next (AfterSuccess s rx 0 false false)) ∧
    (∃ rx, exec .fmulP s = .next (AfterSuccess s rx 0 false false)) ∧
    (∃ rx, exec .finvP s = .next (AfterSuccess s rx 0 false false)) ∧
    exec .faddN s = .next (AfterError s .range) ∧ exec .fsubN s = .next (AfterError s .range) ∧
    exec .fmulN s = .next (AfterError s .range) ∧ exec .finvN s = .next (AfterError s .range)

/-! ## The point commands -/

/-- 41_curve_points.md R104: PCHK.
That the working registers keep their values is the model's (DESIGN CHOICE, log 8). -/
def Obligations.CurveCheckResult : Prop :=
  encode .pchk = 0x06 ∧ (∃ why, decodeWord 0x16 = .illegal why) ∧
  ∀ s : State,
    (s.snap.inf1 = true → exec .pchk s = .next (AfterSuccess s 1 0 false true)) ∧
    (s.snap.inf1 = false → opA s < P → opB s < P → OnSecp (opA s) (opB s) →
      exec .pchk s = .next (AfterSuccess s 1 0 false true)) ∧
    (s.snap.inf1 = false → opA s < P → opB s < P → ¬ OnSecp (opA s) (opB s) →
      exec .pchk s = .next (AfterSuccess s 0 0 false false)) ∧
    (s.snap.inf1 = false → P ≤ opA s ∨ P ≤ opB s → exec .pchk s = .next (AfterError s .range))

/-- 41_curve_points.md R107: PDBL, with the formulas of R105 for an affine operand that passes the checks.
That the working registers keep their values is the model's (DESIGN CHOICE, log 8). -/
def Obligations.PointDoublingResult : Prop :=
  encode .pdbl = 0x07 ∧ (∃ why, decodeWord 0x17 = .illegal why) ∧
  ∀ s : State,
    (s.snap.inf1 = true → exec .pdbl s = .next (AfterSuccess s 0 0 true false)) ∧
    (s.snap.inf1 = false → opA s < P → opB s < P → OnSecp (opA s) (opB s) →
      ∃ lam x3 y3, lam * (2 * opB s) % P = 3 * (opA s * opA s) % P ∧
        LineResult lam (opA s) (opB s) (opA s) x3 y3 ∧ exec .pdbl s = .next (AfterSuccess s x3 y3 false false)) ∧
    (s.snap.inf1 = false → P ≤ opA s ∨ P ≤ opB s → exec .pdbl s = .next (AfterError s .range)) ∧
    (s.snap.inf1 = false → opA s < P → opB s < P → ¬ OnSecp (opA s) (opB s) →
      exec .pdbl s = .next (AfterError s .notOnCurve))

/-- 41_curve_points.md R108: PADD: the identity, inverse points, equal points (as PDBL), the chord formulas of R106, and
the errors of operands that fail the checks.
That the working registers keep their values is the model's (DESIGN CHOICE, log 8). -/
def Obligations.PointAdditionResult : Prop :=
  encode .padd = 0x08 ∧ (∃ why, decodeWord 0x18 = .illegal why) ∧
  ∀ s : State,
    (s.snap.inf1 = true → s.snap.inf2 = true → exec .padd s = .next (AfterSuccess s 0 0 true false)) ∧
    (s.snap.inf1 = true → s.snap.inf2 = false → opC s < P → opD s < P → OnSecp (opC s) (opD s) →
      exec .padd s = .next (AfterSuccess s (opC s) (opD s) false false)) ∧
    (s.snap.inf1 = false → s.snap.inf2 = true → opA s < P → opB s < P → OnSecp (opA s) (opB s) →
      exec .padd s = .next (AfterSuccess s (opA s) (opB s) false false)) ∧
    (s.snap.inf1 = false → s.snap.inf2 = false → opA s < P → opB s < P → OnSecp (opA s) (opB s) →
      opC s < P → opD s < P → OnSecp (opC s) (opD s) →
      (opA s = opC s → opB s = opD s → exec .padd s = exec .pdbl s) ∧
      (opA s = opC s → opB s ≠ opD s →
        opD s = P - opB s ∧ exec .padd s = .next (AfterSuccess s 0 0 true false)) ∧
      (opA s ≠ opC s → ∃ lam x3 y3,
        lam * (opC s + (P - opA s)) % P = (opD s + (P - opB s)) % P ∧
        LineResult lam (opA s) (opB s) (opC s) x3 y3 ∧
        exec .padd s = .next (AfterSuccess s x3 y3 false false))) ∧
    ((s.snap.inf1 = false ∧ (P ≤ opA s ∨ P ≤ opB s)) ∨ (s.snap.inf2 = false ∧ (P ≤ opC s ∨ P ≤ opD s)) →
      exec .padd s = .next (AfterError s .range)) ∧
    ((s.snap.inf1 = true ∨ (opA s < P ∧ opB s < P)) → (s.snap.inf2 = true ∨ (opC s < P ∧ opD s < P)) →
      ((s.snap.inf1 = false ∧ ¬ OnSecp (opA s) (opB s)) ∨ (s.snap.inf2 = false ∧ ¬ OnSecp (opC s) (opD s))) →
      exec .padd s = .next (AfterError s .notOnCurve))

/-- 41_curve_points.md R110: no point of the curve has `y = 0`. -/
def Obligations.NoCurvePointHasZeroY : Prop := ∀ x : Nat, onCurve x 0 = false

/-- 41_curve_points.md R109: the point functions keep points in range and on the curve. -/
def Obligations.PointFunctionsStayOnTheCurve : Prop :=
  ∀ q r : Point, q.valid = true → r.valid = true → (dbl q).valid = true ∧ (add q r).valid = true

/-- 41_curve_points.md R108, R107 (corner cases): `add` commutes on all range-checked operands, and doubling commutes
with `neg`. -/
def Obligations.PointAdditionCommutes : Prop :=
  (∀ q r : Point, q.rangeOk = true → r.rangeOk = true → add q r = add r q) ∧
    ∀ q : Point, q.rangeOk = true → dbl q.neg = (dbl q).neg

/-- 41_curve_points.md R105, R106 with 42_scalar_mult.md R126: on the points that pass the checks, `dbl` and `add` are
the group law of the curve as Mathlib defines it. -/
def Obligations.PointFunctionsAreTheGroupLaw : Prop :=
  ∀ [Fact (Nat.Prime P)],
    (∀ q : Point, q.valid = true ↔ ∃ g, q = pointOf g) ∧
    (∀ g : secp256k1.Point, dbl (pointOf g) = pointOf (g + g)) ∧
    (∀ g h : secp256k1.Point, add (pointOf g) (pointOf h) = pointOf (g + h)) ∧
    (∀ g : secp256k1.Point, (pointOf g).neg = pointOf (-g))

/-! ## The scalar multiplication engine -/

/-- 42_scalar_mult.md R117, R119, R124, R125 with the point check of 41_curve_points.md R103: the first step of PMUL and
PMULG when the checks pass is PM_INIT. That it is a step of its own and sets the bit `started` is the model's (DEDUCED,
log 1), and so is what the coordinates of INF are (log 18; not stated here). -/
def Obligations.ScalarCommandStarts : Prop :=
  encode .pmul = 0x09 ∧ encode .pmulg = 0x0A ∧
  ∀ s : State, s.pm.started = false → 1 ≤ s.snap.k.toNat → s.snap.k.toNat < N →
    (s.snap.inf1 = true ∨ (opA s < P ∧ opB s < P ∧ OnSecp (opA s) (opB s)) →
      ∃ base : PointReg,
        (s.snap.inf1 = true → base.inf = true) ∧
        (s.snap.inf1 = false → base = ⟨s.snap.a, s.snap.b, false⟩) ∧
        exec .pmul s = .next
          { s with pm := { acc := base, base := base, idx := BitVec.ofInt 9 (bitlen s.snap.k - 2 : Int), phase := .dbl,
                           started := true } }) ∧
    exec .pmulg s = .next
      { s with pm := { acc := ⟨BitVec.ofNat 256 Gx, BitVec.ofNat 256 Gy, false⟩,
                       base := ⟨BitVec.ofNat 256 Gx, BitVec.ofNat 256 Gy, false⟩,
                       idx := BitVec.ofInt 9 (bitlen s.snap.k - 2 : Int), phase := .dbl, started := true } }

/-- 42_scalar_mult.md R120, R121, R122: the doubling micro-step, the addition micro-step and the finish, for PMUL and
PMULG. The bit `started` is the model's (DEDUCED, log 1), and so is that INF is held with coordinates 0 (DESIGN CHOICE,
log 18).
That the finish keeps the working registers is the model's (DESIGN CHOICE, log 8). -/
def Obligations.ScalarMicroStepsAndFinish : Prop :=
  ∀ (i : Instr) (s : State), i = .pmul ∨ i = .pmulg → s.pm.started = true →
    (s.pm.idx ≠ 0x1FF → s.pm.phase = .dbl → s.snap.k.getLsbD s.pm.idx.toNat = true →
      exec i s = .next
        { s with pm := { s.pm with acc := PointReg.ofPoint (dbl s.pm.acc.point), phase := .add } }) ∧
    (s.pm.idx ≠ 0x1FF → s.pm.phase = .dbl → s.snap.k.getLsbD s.pm.idx.toNat = false →
      exec i s = .next
        { s with pm := { s.pm with acc := PointReg.ofPoint (dbl s.pm.acc.point), idx := s.pm.idx - 1 } }) ∧
    (s.pm.idx ≠ 0x1FF → s.pm.phase = .add →
      exec i s = .next
        { s with pm := { s.pm with acc := PointReg.ofPoint (add s.pm.acc.point s.pm.base.point),
                                   idx := s.pm.idx - 1, phase := .dbl } }) ∧
    (s.pm.idx = 0x1FF → s.pm.acc.inf = true → exec i s = .next (AfterSuccess s 0 0 true false)) ∧
    (s.pm.idx = 0x1FF → s.pm.acc.inf = false →
      exec i s = .next (AfterSuccess s s.pm.acc.x.toNat s.pm.acc.y.toNat false false))

/-- 42_scalar_mult.md R123, R124, R125: a scalar command that passes its checks takes PM_INIT, exactly
`bitlen(k) - 1` doublings and `popcount(k) - 1` additions, and the finish (one engine step each, log 1): it is in progress
until then, and its result is that of the double-and-add over the bits of `k` (R118). -/
def Obligations.ScalarMultiplicationRunsItsCountedSteps : Prop :=
  ∀ (s : State) (i : Instr), i = .pmul ∨ i = .pmulg → Running s i → s.pm.started = false →
    scalarOk s.snap.k = true → (scalarBase s.snap i).valid = true →
    (∀ n, n < bitlen s.snap.k + popcount s.snap.k → ∃ t, engineRun n s = .next t ∧ t.busy = true) ∧
    ∃ pm, engineRun (bitlen s.snap.k + popcount s.snap.k) s = .next
      (match doubleAndAdd s.snap.k (scalarBase s.snap i) with
        | .inf => AfterSuccess { s with pm := pm } 0 0 true false
        | .aff x y => AfterSuccess { s with pm := pm } x y false false)

/-- 42_scalar_mult.md R126: the double-and-add over the bits of `k` is the group multiple `k·Q`. -/
def Obligations.DoubleAndAddIsTheGroupMultiple : Prop :=
  ∀ [Fact (Nat.Prime P)] (k : Wide) (g : secp256k1.Point), scalarOk k = true →
    doubleAndAdd k (pointOf g) = pointOf (k.toNat • g)

/-- 42_scalar_mult.md R125, R127: PMULG with a legal scalar completes successfully with RINF = 0, its result a point of the
curve in range; nothing but that completion and the working registers changes. The number of steps rests on log 1. -/
def Obligations.GeneratorMultipleIsNeverInfinity : Prop :=
  ∀ s : State, Running s .pmulg → s.pm.started = false → scalarOk s.snap.k = true →
    ∃ pm x y, x < P ∧ y < P ∧ OnSecp x y ∧
      engineRun (bitlen s.snap.k + popcount s.snap.k) s = .next (AfterSuccess { s with pm := pm } x y false false)

/-- 60_exceptions.md R131: every accepted command, legal or not, ends in a completion after finitely many engine steps.
The bound 512 is read from 42_scalar_mult.md R123 (at most 255 doublings and 255 additions) and from PM_INIT and the
finish being one step each (DEDUCED, log 1). -/
def Obligations.EveryAcceptedCommandCompletes : Prop :=
  ∀ (s : State) (w : Word), s.inReset = false → s.busy = false →
    ∃ n t, n ≤ 512 ∧ engineRun n (accept s w) = .next t ∧ t.busy = false ∧ t.done = true

/-! ## The register window -/

/-- 10_state.md R21, R41, 20_memory.md R48: each register lies at the offset of R21's table, a multiple of 4, each offset
names at most one register, and the offsets with none are exactly the reserved ones. -/
def Obligations.RegisterMapHasNoAliases : Prop :=
  (∀ r : Reg, r.offset = MapOffset r) ∧
  (∀ r : Reg, regAt r.offset = some r ∧ r.offset % 4 = 0 ∧ r.offset < 4096) ∧
    (∀ (off : Nat) (r : Reg), off % 4 = 0 → regAt off = some r → off = r.offset) ∧
    ∀ off, off % 4 = 0 → off < 4096 → (regAt off = none ↔ (0x018 ≤ off ∧ off ≤ 0x03C) ∨ 0x120 ≤ off)

/-- 20_memory.md R51, R48: what a legal read of each register and of a reserved offset returns; it changes no state (the
answer is recorded, log 3). -/
def Obligations.ReadsReturnAndChangeNothing : Prop :=
  ∀ (s : State) (d : Word), s.inReset = false →
    (∀ r : Reg, busAccess (wordRead s (MapOffset r) d) s = .next
      { s with answers := .read (BitVec.ofNat 32 (ReadValue s r)) :: s.answers }) ∧
    ∀ off, off % 4 = 0 → (0x018 ≤ off ∧ off ≤ 0x03C) ∨ (0x120 ≤ off ∧ off ≤ 0xFFC) →
      busAccess (wordRead s off d) s = .next { s with answers := .read 0 :: s.answers }

/-- 10_state.md R33: a STATUS write changes only DONE, ERR and OVR, each only where the written bit is 1, and sets none
(the answer is recorded, log 3). -/
def Obligations.StatusWriteOnlyClears : Prop :=
  ∀ (s : State) (v : Word), s.inReset = false →
    ∃ t, busAccess (wordWrite s 0x008 v) s = .next t ∧
      t = { s with done := t.done, err := t.err, ovr := t.ovr, answers := .wrote :: s.answers } ∧
      (t.done = if v.getLsbD 1 then false else s.done) ∧ (t.err = if v.getLsbD 2 then false else s.err) ∧
      (t.ovr = if v.getLsbD 5 then false else s.ovr)

/-- 10_state.md R24: a legal write of a word of an operand register, also while BUSY, changes only that word (the answer
is recorded, log 3). -/
def Obligations.OperandWriteChangesOneWord : Prop :=
  ∀ (s : State) (x : WideReg) (i : Fin 8) (v : Word), s.inReset = false → x ≠ .resX → x ≠ .resY →
    ∃ t, busAccess (wordWrite s (MapOffset (.word x i)) v) s = .next t ∧
      (∀ (y : WideReg) (j : Fin 8),
        getWord (WideValue t y) j = if y = x ∧ j = i then v else getWord (WideValue s y) j) ∧
      t = { s with opa := t.opa, opb := t.opb, opc := t.opc, opd := t.opd, opk := t.opk,
                   answers := .wrote :: s.answers }

/-- 10_state.md R24: every word of an operand register is writable, also while BUSY, a write changing only the written word,
and reads as what was last written; the engine never writes them; reset leaves them 0. What becomes of the answer is not
stated here. -/
def Obligations.OperandRegistersHoldWhatTheHostWrote : Prop :=
  (∀ (s : State) (x : WideReg) (i : Fin 8) (v : Word), s.inReset = false → x ≠ .resX → x ≠ .resY →
    ∃ t, busAccess (wordWrite s (MapOffset (.word x i)) v) s = .next t ∧
      readOff t (MapOffset (.word x i)) = v ∧
      (∀ r : Reg, r ≠ .word x i → readOff t (MapOffset r) = readOff s (MapOffset r)) ∧
      t = { s with opa := t.opa, opb := t.opb, opc := t.opc, opd := t.opd, opk := t.opk, answers := t.answers }) ∧
  (∀ (s t : State) (x : WideReg), x ≠ .resX → x ≠ .resY → engineStep s = .next t → WideValue t x = WideValue s x) ∧
  (∀ (s : State) (x : WideReg) (i : Fin 8), readOff s (MapOffset (.word x i)) = getWord (WideValue s x) i) ∧
  ∀ x : WideReg, WideValue State.reset x = 0

/-- 10_state.md R33: STATUS bits 31:6 read as 0; a write of STATUS changes only bits 1, 2 and 5 of what is read, each only
where the written bit is 1, and sets none; no other register changes. What becomes of the answer is not stated here. -/
def Obligations.StatusWriteBitByBit : Prop :=
  (∀ (s : State) (j : Nat), 6 ≤ j → (readOff s 0x008).getLsbD j = false) ∧
  ∀ (s : State) (v : Word), s.inReset = false →
    ∃ t, busAccess (wordWrite s 0x008 v) s = .next t ∧
      (∀ j, (readOff t 0x008).getLsbD j =
        if j = 1 ∨ j = 2 ∨ j = 5 then (readOff s 0x008).getLsbD j && !v.getLsbD j else (readOff s 0x008).getLsbD j) ∧
      t = { s with done := t.done, err := t.err, ovr := t.ovr, answers := t.answers }

/-- 20_memory.md R52, R48, 10_state.md R22, R26, R34: a legal write to a read-only register or a reserved offset is
ignored and answered OKAY (the answer is recorded, log 3). -/
def Obligations.ReadOnlyAndReservedWritesAreIgnored : Prop :=
  ∀ (s : State) (off : Nat) (v : Word), s.inReset = false → off % 4 = 0 →
    off = 0x000 ∨ off = 0x00C ∨ (0x0E0 ≤ off ∧ off ≤ 0x11C) ∨ (0x018 ≤ off ∧ off ≤ 0x03C) ∨
      (0x120 ≤ off ∧ off ≤ 0xFFC) →
    busAccess (wordWrite s off v) s = .next { s with answers := .wrote :: s.answers }

/-- 10_state.md R35, R36: IRQ_EN takes bit 0 and PT_FLAGS bits 0 and 1 of the written word; the other bits are ignored,
and nothing else changes (the answer is recorded, log 3). -/
def Obligations.EnableAndFlagWrites : Prop :=
  ∀ (s : State) (v : Word), s.inReset = false →
    busAccess (wordWrite s 0x010 v) s = .next
      { s with doneIe := decide (v.toNat % 2 = 1), answers := .wrote :: s.answers } ∧
    busAccess (wordWrite s 0x014 v) s = .next
      { s with inf1 := decide (v.toNat % 2 = 1), inf2 := decide (v.toNat / 2 % 2 = 1),
               answers := .wrote :: s.answers }

/-- 20_memory.md R50: a transaction in the window that is not a word access at a multiple of 4 is answered ERROR and
changes no state of the block; the model records the host's fault (60_exceptions.md R140, log 4). -/
def Obligations.IllegalTransactionsAreAnsweredError : Prop :=
  ∀ (s : State) (off : Nat) (size : AccessSize) (write : Bool) (v : Word), s.inReset = false → off < 4096 →
    size ≠ .word ∨ off % 4 ≠ 0 →
    busAccess ⟨s.baseAddr + off, size, write, v⟩ s = .next { s with answers := .error :: s.answers, hostFault := true }

/-- 20_memory.md R46, 70_reset_and_hazards.md R154: no access outside the window or during reset is answered (logs 5
and 6). -/
def Obligations.AccessesOutsideWindowOrInResetStop : Prop :=
  ∀ (s : State) (t : Transaction),
    (s.inReset = true → busAccess t s = .fault .accessDuringReset) ∧
    (s.inReset = false → t.addr < 4096 * s.basePage ∨ 4096 * s.basePage + 0xFFF < t.addr →
      busAccess t s = .fault .outsideWindow)

/-- 20_memory.md R53: `X = Σ X.w[i] · 2^(32·i)`. -/
def Obligations.RegisterIsTheSumOfItsWords : Prop :=
  ∀ x : Wide, x.toNat = ∑ i : Fin 8, (getWord x i).toNat * 2 ^ (32 * i.val)

/-- 20_memory.md R57: every write but a CMD write is idempotent. -/
def Obligations.OtherWritesAreIdempotent : Prop :=
  ∀ (s : State) (off : Nat) (v : Word), off % 4 = 0 → off ≠ 0x004 →
    writeOff (writeOff s off v) off v = writeOff s off v

/-! ## Interrupt, reset and whole-machine rules -/

/-- 60_exceptions.md R139: irq is raised by every completion when enabled and is cleared by a W1C of DONE, by the
acceptance of a command, and masked (DONE staying) by clearing DONE_IE. -/
def Obligations.InterruptFollowsDone : Prop :=
  (∀ s : State, s.irq = true ↔ s.doneIe = true ∧ s.done = true) ∧
  (∀ s t, engineStep s = .next t → s.busy = true → t.busy = false → t.irq = s.doneIe) ∧
  (∀ (s : State) (v : Word), s.inReset = false → v.getLsbD 1 = true →
    ∃ t, busAccess (wordWrite s 0x008 v) s = .next t ∧ t.irq = false) ∧
  (∀ (s : State) (w : Word), s.inReset = false → s.busy = false →
    ∃ t, busAccess (wordWrite s 0x004 w) s = .next t ∧ t.irq = false) ∧
  ∀ (s : State) (v : Word), s.inReset = false → v.getLsbD 0 = false →
    ∃ t, busAccess (wordWrite s 0x010 v) s = .next t ∧ t.irq = false ∧ t.done = s.done

/-- 60_exceptions.md R141: with the host access first and the completion second, a W1C of DONE leaves DONE set and a CMD
write is dropped with OVR set. -/
def Obligations.HostAccessBeforeCompletion : Prop :=
  ∀ (s : State) (v : Word) (t t' : State), s.inReset = false → s.busy = true →
    (busAccess (wordWrite s 0x008 v) s = .next t → engineStep t = .next t' → t'.busy = false → t'.done = true) ∧
    (busAccess (wordWrite s 0x004 v) s = .next t → engineStep t = .next t' →
      t'.ovr = true ∧ t'.cmd = s.cmd ∧ t'.snap = s.snap)

/-- 70_reset_and_hazards.md R151: what the step that asserts reset leaves, whatever was in progress (R152), and that every
register stays so while reset is asserted and at the edge that releases it, which alone ends it. The snapshot and working
registers are unspecified by the spec and not stated here. That reset is a level with two edges is the model's (DESIGN
CHOICE, log 7). -/
def Obligations.ResetGivesEveryRegisterItsResetValue : Prop :=
  (∀ (s : State) (rest : List Turn), s.turns = .resetAssert :: rest →
    ∃ t, step s = .next t ∧ t.inReset = true ∧ t.turns = rest ∧ RegistersReset t) ∧
  (∀ (s : State) (rest : List Turn), s.inReset = true → RegistersReset s → s.turns = .resetRelease :: rest →
    ∃ t, step s = .next t ∧ t.inReset = false ∧ t.turns = rest ∧ RegistersReset t) ∧
  ∀ s t : State, s.inReset = true → RegistersReset s → step s = .next t →
    RegistersReset t ∧ (t.inReset = true ∨ s.turns = .resetRelease :: t.turns)

/-- 10_state.md R21: the reset values of the machine's reset state, which meets the clean-entry record of
70_reset_and_hazards.md R166, with reset released (log 7). -/
def Obligations.ResetStateHasTheResetValues : Prop :=
  (∀ r : Reg, ReadValue State.reset r = if r = .id then 0x534B3101 else 0) ∧ State.reset.eng = .idle ∧
    State.reset.irq = false ∧ CleanEntry State.reset

/-- The invariants hold at reset. The model's choices in them: the canonical form of the temporaries (DESIGN CHOICE, log 11),
the run state of an illegal word (DEDUCED, log 10) and the bit `started` (DEDUCED, log 1). -/
def Obligations.InvariantsHoldAtReset : Prop :=
  StatusInv State.reset ∧ ScalarInv State.reset ∧ CurveInv State.reset ∧ tempsWf State.reset.host.temps = true

/-- Every step keeps the status and scalar-engine invariants (10_state.md R23 to R39, R42; 42_scalar_mult.md R117 to
R122; the ranges by 40_field_arith.md R88 and 41_curve_points.md R109). The model's choices in them: the run state of an
illegal word (DEDUCED, log 10) and the bit `started` (DEDUCED, log 1). -/
def Obligations.StepKeepsStatusAndScalarInvariants : Prop :=
  ∀ s t : State, StatusInv s → ScalarInv s → step s = .next t → StatusInv t ∧ ScalarInv t

/-- Every step keeps the temporaries of the host program in their canonical form. The form is the model's (DESIGN CHOICE,
log 11). -/
def Obligations.StepKeepsTemporariesCanonical : Prop :=
  ∀ s t : State, tempsWf s.host.temps = true → step s = .next t → tempsWf t.host.temps = true

/-- 41_curve_points.md R109: every step keeps the working points of the scalar engine on the curve. The bit `started` is the
model's (DEDUCED, log 1). -/
def Obligations.StepKeepsWorkingPointsOnTheCurve : Prop :=
  ∀ s t : State, CurveInv s → step s = .next t → CurveInv t

/-- 41_curve_points.md R109: every point the block writes to RES_X, RES_Y with RINF = 0 is on the curve, with
coordinates below P. -/
def Obligations.PointResultsLieOnTheCurve : Prop :=
  ∀ (i : Instr) (s t : State), i = .pdbl ∨ i = .padd ∨ i = .pmul ∨ i = .pmulg → s.busy = true → s.err = false →
    CurveInv s → exec i s = .next t → t.busy = false → t.err = false → t.rinf = false →
    t.resX.toNat < P ∧ t.resY.toNat < P ∧ OnSecp t.resX.toNat t.resY.toNat

/-- 10_state.md R26: RES_X, RES_Y, RINF and ONCURVE change only in a successful completion, in the same step as DONE is
set, or in reset. -/
def Obligations.ResultsChangeOnlyAtCompletion : Prop :=
  ∀ s t : State, step s = .next t →
    (t.resX = s.resX ∧ t.resY = s.resY ∧ t.rinf = s.rinf ∧ t.oncurve = s.oncurve) ∨
      (s.busy = true ∧ t.busy = false ∧ t.done = true ∧ t.err = s.err ∧ t.errcode = s.errcode) ∨
      (t.inReset = true ∧ RegistersReset t)

/-- 10_state.md R37, 42_scalar_mult.md R128: the snapshot changes only at an acceptance or in reset; at an acceptance it
is the host's operands. -/
def Obligations.SnapshotChangesOnlyAtAcceptance : Prop :=
  ∀ s t : State, step s = .next t →
    t.snap = s.snap ∨ (t.inReset = true ∧ RegistersReset t) ∨
      (s.busy = false ∧ t.busy = true ∧ t.snap.a = s.opa ∧ t.snap.b = s.opb ∧ t.snap.c = s.opc ∧ t.snap.d = s.opd ∧
        t.snap.k = s.opk ∧ t.snap.inf1 = s.inf1 ∧ t.snap.inf2 = s.inf2)

/-- 10_state.md R27, R42: BUSY rises only at an acceptance, and falls only at a completion, which sets DONE, or in
reset. -/
def Obligations.BusyRisesAtAcceptanceAndFallsAtCompletion : Prop :=
  ∀ s t : State, step s = .next t →
    (s.busy = false → t.busy = true →
      t.done = false ∧ t.err = false ∧ t.errcode = .none ∧ t.cmd = joinWord ⟨t.snap.op, t.snap.mod, t.snap.rsvd⟩) ∧
    (s.busy = true → t.busy = false → t.done = true ∨ (t.inReset = true ∧ RegistersReset t))

/-- 10_state.md R34: ERRCODE changes only at an error completion, at an acceptance (to E_NONE) and in reset; clearing
ERR leaves it. -/
def Obligations.ErrcodeChangesOnlyAsItsRuleSays : Prop :=
  ∀ s t : State, step s = .next t →
    t.errcode = s.errcode ∨ (s.busy = true ∧ t.busy = false ∧ t.err = true ∧ t.done = true) ∨
      (t.errcode = .none ∧ ((s.busy = false ∧ t.busy = true) ∨ (t.inReset = true ∧ RegistersReset t)))

/-- 10_state.md R37, 70_reset_and_hazards.md R159: an engine step depends on the snapshot and the working registers
only: from two states that agree on them, whatever their other registers hold, it leads to the same engine state and
working registers, and to the same result or the same error.
That the working registers keep their values is the model's (DESIGN CHOICE, log 8). -/
def Obligations.HostRegistersDoNotAffectTheRunningCommand : Prop :=
  ∀ s₁ s₂ : State, s₁.snap = s₂.snap → s₁.pm = s₂.pm → s₁.eng = s₂.eng → s₁.inReset = s₂.inReset →
    ∃ t₁ t₂, engineStep s₁ = .next t₁ ∧ engineStep s₂ = .next t₂ ∧ t₁.pm = t₂.pm ∧ t₁.eng = t₂.eng ∧
      ((t₁ = { s₁ with pm := t₁.pm } ∧ t₂ = { s₂ with pm := t₂.pm }) ∨
        (∃ rx ry rinf oncurve, t₁ = AfterSuccess s₁ rx ry rinf oncurve ∧ t₂ = AfterSuccess s₂ rx ry rinf oncurve) ∨
        ∃ code, t₁ = AfterError s₁ code ∧ t₂ = AfterError s₂ code)

/-- 60_exceptions.md R140: a recorded host fault is never cleared, nor by reset (DESIGN CHOICE, log 4); and no step changes
BASE_ADDR (20_memory.md R46; log 9). -/
def Obligations.HostFaultIsNeverCleared : Prop :=
  ∀ s t : State, step s = .next t → (s.hostFault = true → t.hostFault = true) ∧ t.basePage = s.basePage

/-! ## The host notation -/

/-- 30_encoding.md R85: one statement of the host program. `wr` and `rd` are legal bus accesses of the named register
(outside reset), `rd` leaving the value read in its temporary and every other temporary as it was, the branches test
`t & mask`, `halt` ends the program. The encoding of temporaries and labels, and the canonical form `tempsWf` of the
temporaries, are the model's (DESIGN CHOICE, log 11). -/
def Obligations.HostStatementsRun : Prop :=
  ∀ (s : State) (stmt : HostStmt), s.host.prog[s.host.pc]? = some stmt → s.inReset = false →
    match stmt with
    | .wr r v => ∃ t, busAccess (wordWrite s (MapOffset r)
          (match v with
            | .imm x => x
            | .temp m => tempGet s.host.temps m)) s = .next t ∧
        hostStep s = .next { t with host := { s.host with pc := s.host.pc + 1 } }
    | .rd r n => ∃ t temps, busAccess (wordRead s (MapOffset r) 0) s = .next t ∧
        hostStep s = .next { t with host := { s.host with pc := s.host.pc + 1, temps := temps } } ∧
        temps = tempSet s.host.temps n (BitVec.ofNat 32 (ReadValue s r)) ∧
        (tempsWf s.host.temps = true →
          tempsWf temps = true ∧
            ∀ m, tempGet temps m = if m = n then BitVec.ofNat 32 (ReadValue s r) else tempGet s.host.temps m)
    | .bnz n mask l => hostStep s = .next
        { s with host := { s.host with pc := if tempGet s.host.temps n &&& mask = 0 then s.host.pc + 1 else l } }
    | .bz n mask l => hostStep s = .next
        { s with host := { s.host with pc := if tempGet s.host.temps n &&& mask = 0 then l else s.host.pc + 1 } }
    | .b l => hostStep s = .next { s with host := { s.host with pc := l } }
    | .halt => hostStep s = .next s ∧ hostHalted s = true

/-- 70_reset_and_hazards.md R165: while a command is in progress the run is not over. That a step of a finished run with no
input pending changes nothing is the model's: the order taken when no turn is given (DESIGN CHOICE, log 2), and a host past
its last statement being halted (DESIGN CHOICE, log 11). -/
def Obligations.FinishedRunStays : Prop :=
  ∀ s : State, (RunOver s → s.turns = [] → step s = .next s) ∧ (s.busy = true → ¬ RunOver s)

/-- 30_encoding.md R86: the eight writes of `wr256 X, v`, run one after another by the host program outside reset, leave
`v` in the operand register and every other 256-bit register as it was. The host program's encoding is the model's (DESIGN
CHOICE, log 11), and so are the turns (log 2). -/
def Obligations.Wr256LoadsTheRegister : Prop :=
  ∀ (s : State) (x : WideReg) (v : Wide) (rest : List HostStmt), x ≠ .resX → x ≠ .resY → s.inReset = false →
    s.host.prog.drop s.host.pc = wr256 x v ++ rest → s.turns = List.replicate 8 .host →
    ∃ t, Host.Core.run Sys2Proof.core 8 s = .next t ∧ WideValue t x = v ∧ (∀ y, y ≠ x → WideValue t y = WideValue s y) ∧
      t.host.prog.drop t.host.pc = rest ∧ t.turns = []
end

