-- ==== Sys2Proof/Laws/Field.lean ====
section
/-! SUPPORT. Laws/Field.lean: what the field functions of 40_field_arith.md R88 answer: results in range, their values in
ZMod m, and the inverse of every operand that has one. -/

namespace Sys2Proof.Laws

open Sys2Proof.Machine Sys2Proof.Config

theorem fieldOk_iff (v m : Nat) : fieldOk v m = true ↔ v < m := by simp [fieldOk]

theorem P_lt : P < 2 ^ 256 := by decide
theorem N_lt : N < 2 ^ 256 := by decide
theorem N_lt_P : N < P := by decide
theorem one_lt_P : 1 < P := by decide
theorem one_lt_N : 1 < N := by decide

theorem fAdd_lt {m : Nat} (hm : 0 < m) (a b : Nat) : fAdd a b m < m := Nat.mod_lt _ hm

theorem fMul_lt {m : Nat} (hm : 0 < m) (a b : Nat) : fMul a b m < m := Nat.mod_lt _ hm

theorem fRed_lt {m : Nat} (hm : 0 < m) (v : Nat) : fRed v m < m := Nat.mod_lt _ hm

theorem fSub_lt {m : Nat} (hm : 0 < m) (a b : Nat) : fSub a b m < m := by
  have h0 := Int.emod_nonneg ((a : Int) - b) (Int.natCast_ne_zero.2 hm.ne')
  have h1 := Int.emod_lt_of_pos ((a : Int) - b) (Int.natCast_pos.2 hm)
  unfold fSub; omega

theorem fInv_lt {m : Nat} (hm : 0 < m) (a : Nat) : fInv a m < m := Nat.mod_lt _ hm

/-- Subtraction of operands in range borrows at most once (40_field_arith.md R91). -/
theorem fSub_of_lt {a b m : Nat} (ha : a < m) (hb : b < m) :
    fSub a b m = if b ≤ a then a - b else a + m - b := by
  unfold fSub
  split
  · rw [Int.emod_eq_of_lt (by omega) (by omega)]; omega
  · rw [← Int.add_emod_right, Int.emod_eq_of_lt (by omega) (by omega)]; omega

/-! The values in ZMod m. -/

theorem cast_fAdd (a b m : Nat) : ((fAdd a b m : Nat) : ZMod m) = a + b := by simp [fAdd]

theorem cast_fMul (a b m : Nat) : ((fMul a b m : Nat) : ZMod m) = a * b := by simp [fMul]

theorem cast_fSub {m : Nat} (hm : 0 < m) (a b : Nat) : ((fSub a b m : Nat) : ZMod m) = a - b := by
  have h0 := Int.emod_nonneg ((a : Int) - b) (Int.natCast_ne_zero.2 hm.ne')
  have h : (((fSub a b m : Nat) : Int) : ZMod m) = (((a : Int) - b : Int) : ZMod m) := by
    rw [fSub, Int.toNat_of_nonneg h0, ZMod.intCast_mod]
  simpa using h

/-! The inverse. -/

/-- Euclid's loop keeps `t·a = r` modulo `m`, and with fuel for the product of its two remainders it answers the
multiple of `a` that gives their gcd. -/
theorem euclidLoop_mul {a m : Nat} (hm : 0 < m) :
    ∀ (n r0 r1 t0 t1 : Nat), r1 < r0 → r0 * r1 < 2 ^ n →
      (t0 * a : ZMod m) = r0 → (t1 * a : ZMod m) = r1 →
      ((euclidLoop m n r0 r1 t0 t1 : Nat) * a : ZMod m) = (Nat.gcd r0 r1 : Nat) := by
  intro n
  induction n with
  | zero =>
    intro r0 r1 t0 t1 h hf h0 _
    have h1 : r1 = 0 := by
      have : r0 * r1 = 0 := by simpa using hf
      rcases Nat.mul_eq_zero.1 this with h' | h' <;> omega
    simp [euclidLoop, h1, h0]
  | succ n ih =>
    intro r0 r1 t0 t1 h hf h0 h1
    rw [euclidLoop]
    split
    · rename_i hz; simp [hz, h0]
    · rename_i hz
      have hpos : 0 < r1 := Nat.pos_of_ne_zero hz
      rw [Nat.gcd_comm, Nat.gcd_rec, Nat.gcd_comm]
      refine ih r1 (r0 % r1) t1 _ (Nat.mod_lt _ hpos) ?_ h1 ?_
      · have hq : 1 ≤ r0 / r1 := Nat.div_pos h.le hpos
        have he := Nat.div_add_mod r0 r1
        have hl := Nat.mod_lt r0 hpos
        have h2 : 2 * (r0 % r1) ≤ r0 := by nlinarith
        have : 2 * (r1 * (r0 % r1)) ≤ r0 * r1 := by nlinarith
        rw [pow_succ] at hf; omega
      · rw [cast_fSub hm]
        have he : ((r1 * (r0 / r1) + r0 % r1 : Nat) : ZMod m) = (r0 : Nat) := by rw [Nat.div_add_mod]
        push_cast at he ⊢
        rw [sub_mul, h0, mul_assoc, h1]
        linear_combination -he

theorem cast_fInv_mul {a m : Nat} (ha : a < m) (hm : m < 2 ^ 256) (hg : Nat.gcd a m = 1) :
    ((fInv a m : Nat) * a : ZMod m) = 1 := by
  have hpos : 0 < m := by omega
  have h := euclidLoop_mul (a := a) hpos euclidFuel m a 0 1 ha
    (by
      calc m * a < 2 ^ 256 * 2 ^ 256 := Nat.mul_lt_mul'' hm (ha.trans hm)
        _ = 2 ^ euclidFuel := (pow_add 2 256 256).symm)
    (by simp) (by simp)
  rw [Nat.gcd_comm, hg] at h
  simpa [fInv] using h

/-- `inv_m(a)` is in `[1, m)` and `(a·inv_m(a)) mod m = 1` whenever `gcd(a, m) = 1` (00_scope.md R12). -/
theorem fInv_mul_mod {a m : Nat} (h1 : 1 < m) (ha : a < m) (hm : m < 2 ^ 256) (hg : Nat.gcd a m = 1) :
    a * fInv a m % m = 1 := by
  have h := cast_fInv_mul ha hm hg
  have h' : ((a * fInv a m : Nat) : ZMod m) = ((1 : Nat) : ZMod m) := by
    push_cast; rw [mul_comm]; exact h
  rw [ZMod.natCast_eq_natCast_iff] at h'
  rw [h', Nat.mod_eq_of_lt h1]

end Sys2Proof.Laws
end

