-- ==== Sys2Proof/Laws/State.lean ====
section
/-! SUPPORT. Laws/State.lean: each field of the state after each update, so that no later proof unfolds a record. -/

namespace Sys2Proof.Laws

open Sys2Proof.Machine

variable (s : State)

/-! After `accept`. -/

@[simp] theorem accept_cmd (w : Word) : (accept s w).cmd = w := rfl
@[simp] theorem accept_done (w : Word) : (accept s w).done = false := rfl
@[simp] theorem accept_err (w : Word) : (accept s w).err = false := rfl
@[simp] theorem accept_rinf (w : Word) : (accept s w).rinf = s.rinf := rfl
@[simp] theorem accept_oncurve (w : Word) : (accept s w).oncurve = s.oncurve := rfl
@[simp] theorem accept_ovr (w : Word) : (accept s w).ovr = s.ovr := rfl
@[simp] theorem accept_errcode (w : Word) : (accept s w).errcode = .none := rfl
@[simp] theorem accept_doneIe (w : Word) : (accept s w).doneIe = s.doneIe := rfl
@[simp] theorem accept_inf1 (w : Word) : (accept s w).inf1 = s.inf1 := rfl
@[simp] theorem accept_inf2 (w : Word) : (accept s w).inf2 = s.inf2 := rfl
@[simp] theorem accept_opa (w : Word) : (accept s w).opa = s.opa := rfl
@[simp] theorem accept_opb (w : Word) : (accept s w).opb = s.opb := rfl
@[simp] theorem accept_opc (w : Word) : (accept s w).opc = s.opc := rfl
@[simp] theorem accept_opd (w : Word) : (accept s w).opd = s.opd := rfl
@[simp] theorem accept_opk (w : Word) : (accept s w).opk = s.opk := rfl
@[simp] theorem accept_resX (w : Word) : (accept s w).resX = s.resX := rfl
@[simp] theorem accept_resY (w : Word) : (accept s w).resY = s.resY := rfl
@[simp] theorem accept_eng (w : Word) : (accept s w).eng = engFor (splitWord w).op := rfl
@[simp] theorem accept_snap (w : Word) :
    (accept s w).snap =
      { op := (splitWord w).op, mod := (splitWord w).mod, rsvd := (splitWord w).rsvd, a := s.opa, b := s.opb,
        c := s.opc, d := s.opd, k := s.opk, inf1 := s.inf1, inf2 := s.inf2 } := rfl
@[simp] theorem accept_pm (w : Word) : (accept s w).pm = { s.pm with started := false } := rfl
@[simp] theorem accept_inReset (w : Word) : (accept s w).inReset = s.inReset := rfl
@[simp] theorem accept_basePage (w : Word) : (accept s w).basePage = s.basePage := rfl
@[simp] theorem accept_hostFault (w : Word) : (accept s w).hostFault = s.hostFault := rfl
@[simp] theorem accept_answers (w : Word) : (accept s w).answers = s.answers := rfl
@[simp] theorem accept_turns (w : Word) : (accept s w).turns = s.turns := rfl
@[simp] theorem accept_host (w : Word) : (accept s w).host = s.host := rfl

/-! After `overrun`. -/

@[simp] theorem overrun_cmd : (overrun s).cmd = s.cmd := rfl
@[simp] theorem overrun_done : (overrun s).done = s.done := rfl
@[simp] theorem overrun_err : (overrun s).err = s.err := rfl
@[simp] theorem overrun_rinf : (overrun s).rinf = s.rinf := rfl
@[simp] theorem overrun_oncurve : (overrun s).oncurve = s.oncurve := rfl
@[simp] theorem overrun_ovr : (overrun s).ovr = true := rfl
@[simp] theorem overrun_errcode : (overrun s).errcode = s.errcode := rfl
@[simp] theorem overrun_doneIe : (overrun s).doneIe = s.doneIe := rfl
@[simp] theorem overrun_inf1 : (overrun s).inf1 = s.inf1 := rfl
@[simp] theorem overrun_inf2 : (overrun s).inf2 = s.inf2 := rfl
@[simp] theorem overrun_opa : (overrun s).opa = s.opa := rfl
@[simp] theorem overrun_opb : (overrun s).opb = s.opb := rfl
@[simp] theorem overrun_opc : (overrun s).opc = s.opc := rfl
@[simp] theorem overrun_opd : (overrun s).opd = s.opd := rfl
@[simp] theorem overrun_opk : (overrun s).opk = s.opk := rfl
@[simp] theorem overrun_resX : (overrun s).resX = s.resX := rfl
@[simp] theorem overrun_resY : (overrun s).resY = s.resY := rfl
@[simp] theorem overrun_eng : (overrun s).eng = s.eng := rfl
@[simp] theorem overrun_snap : (overrun s).snap = s.snap := rfl
@[simp] theorem overrun_pm : (overrun s).pm = s.pm := rfl
@[simp] theorem overrun_inReset : (overrun s).inReset = s.inReset := rfl
@[simp] theorem overrun_basePage : (overrun s).basePage = s.basePage := rfl
@[simp] theorem overrun_hostFault : (overrun s).hostFault = s.hostFault := rfl
@[simp] theorem overrun_answers : (overrun s).answers = s.answers := rfl
@[simp] theorem overrun_turns : (overrun s).turns = s.turns := rfl
@[simp] theorem overrun_host : (overrun s).host = s.host := rfl

/-! After `completeOk`. -/

@[simp] theorem completeOk_cmd (rx ry : Wide) (ri oc : Bool) : (completeOk s rx ry ri oc).cmd = s.cmd := rfl
@[simp] theorem completeOk_done (rx ry : Wide) (ri oc : Bool) : (completeOk s rx ry ri oc).done = true := rfl
@[simp] theorem completeOk_err (rx ry : Wide) (ri oc : Bool) : (completeOk s rx ry ri oc).err = s.err := rfl
@[simp] theorem completeOk_rinf (rx ry : Wide) (ri oc : Bool) : (completeOk s rx ry ri oc).rinf = ri := rfl
@[simp] theorem completeOk_oncurve (rx ry : Wide) (ri oc : Bool) : (completeOk s rx ry ri oc).oncurve = oc := rfl
@[simp] theorem completeOk_ovr (rx ry : Wide) (ri oc : Bool) : (completeOk s rx ry ri oc).ovr = s.ovr := rfl
@[simp] theorem completeOk_errcode (rx ry : Wide) (ri oc : Bool) :
    (completeOk s rx ry ri oc).errcode =
      s.errcode := rfl
@[simp] theorem completeOk_doneIe (rx ry : Wide) (ri oc : Bool) : (completeOk s rx ry ri oc).doneIe = s.doneIe := rfl
@[simp] theorem completeOk_inf1 (rx ry : Wide) (ri oc : Bool) : (completeOk s rx ry ri oc).inf1 = s.inf1 := rfl
@[simp] theorem completeOk_inf2 (rx ry : Wide) (ri oc : Bool) : (completeOk s rx ry ri oc).inf2 = s.inf2 := rfl
@[simp] theorem completeOk_opa (rx ry : Wide) (ri oc : Bool) : (completeOk s rx ry ri oc).opa = s.opa := rfl
@[simp] theorem completeOk_opb (rx ry : Wide) (ri oc : Bool) : (completeOk s rx ry ri oc).opb = s.opb := rfl
@[simp] theorem completeOk_opc (rx ry : Wide) (ri oc : Bool) : (completeOk s rx ry ri oc).opc = s.opc := rfl
@[simp] theorem completeOk_opd (rx ry : Wide) (ri oc : Bool) : (completeOk s rx ry ri oc).opd = s.opd := rfl
@[simp] theorem completeOk_opk (rx ry : Wide) (ri oc : Bool) : (completeOk s rx ry ri oc).opk = s.opk := rfl
@[simp] theorem completeOk_resX (rx ry : Wide) (ri oc : Bool) : (completeOk s rx ry ri oc).resX = rx := rfl
@[simp] theorem completeOk_resY (rx ry : Wide) (ri oc : Bool) : (completeOk s rx ry ri oc).resY = ry := rfl
@[simp] theorem completeOk_eng (rx ry : Wide) (ri oc : Bool) : (completeOk s rx ry ri oc).eng = .idle := rfl
@[simp] theorem completeOk_snap (rx ry : Wide) (ri oc : Bool) : (completeOk s rx ry ri oc).snap = s.snap := rfl
@[simp] theorem completeOk_pm (rx ry : Wide) (ri oc : Bool) : (completeOk s rx ry ri oc).pm = s.pm := rfl
@[simp] theorem completeOk_inReset (rx ry : Wide) (ri oc : Bool) :
    (completeOk s rx ry ri oc).inReset =
      s.inReset := rfl
@[simp] theorem completeOk_basePage (rx ry : Wide) (ri oc : Bool) :
    (completeOk s rx ry ri oc).basePage =
      s.basePage := rfl
@[simp] theorem completeOk_hostFault (rx ry : Wide) (ri oc : Bool) :
    (completeOk s rx ry ri oc).hostFault =
      s.hostFault := rfl
@[simp] theorem completeOk_answers (rx ry : Wide) (ri oc : Bool) :
    (completeOk s rx ry ri oc).answers =
      s.answers := rfl
@[simp] theorem completeOk_turns (rx ry : Wide) (ri oc : Bool) : (completeOk s rx ry ri oc).turns = s.turns := rfl
@[simp] theorem completeOk_host (rx ry : Wide) (ri oc : Bool) : (completeOk s rx ry ri oc).host = s.host := rfl

/-! After `raiseError`. -/

@[simp] theorem raiseError_cmd (c : ErrCode) : (raiseError s c).cmd = s.cmd := rfl
@[simp] theorem raiseError_done (c : ErrCode) : (raiseError s c).done = true := rfl
@[simp] theorem raiseError_err (c : ErrCode) : (raiseError s c).err = true := rfl
@[simp] theorem raiseError_rinf (c : ErrCode) : (raiseError s c).rinf = s.rinf := rfl
@[simp] theorem raiseError_oncurve (c : ErrCode) : (raiseError s c).oncurve = s.oncurve := rfl
@[simp] theorem raiseError_ovr (c : ErrCode) : (raiseError s c).ovr = s.ovr := rfl
@[simp] theorem raiseError_errcode (c : ErrCode) : (raiseError s c).errcode = c := rfl
@[simp] theorem raiseError_doneIe (c : ErrCode) : (raiseError s c).doneIe = s.doneIe := rfl
@[simp] theorem raiseError_inf1 (c : ErrCode) : (raiseError s c).inf1 = s.inf1 := rfl
@[simp] theorem raiseError_inf2 (c : ErrCode) : (raiseError s c).inf2 = s.inf2 := rfl
@[simp] theorem raiseError_opa (c : ErrCode) : (raiseError s c).opa = s.opa := rfl
@[simp] theorem raiseError_opb (c : ErrCode) : (raiseError s c).opb = s.opb := rfl
@[simp] theorem raiseError_opc (c : ErrCode) : (raiseError s c).opc = s.opc := rfl
@[simp] theorem raiseError_opd (c : ErrCode) : (raiseError s c).opd = s.opd := rfl
@[simp] theorem raiseError_opk (c : ErrCode) : (raiseError s c).opk = s.opk := rfl
@[simp] theorem raiseError_resX (c : ErrCode) : (raiseError s c).resX = s.resX := rfl
@[simp] theorem raiseError_resY (c : ErrCode) : (raiseError s c).resY = s.resY := rfl
@[simp] theorem raiseError_eng (c : ErrCode) : (raiseError s c).eng = .idle := rfl
@[simp] theorem raiseError_snap (c : ErrCode) : (raiseError s c).snap = s.snap := rfl
@[simp] theorem raiseError_pm (c : ErrCode) : (raiseError s c).pm = s.pm := rfl
@[simp] theorem raiseError_inReset (c : ErrCode) : (raiseError s c).inReset = s.inReset := rfl
@[simp] theorem raiseError_basePage (c : ErrCode) : (raiseError s c).basePage = s.basePage := rfl
@[simp] theorem raiseError_hostFault (c : ErrCode) : (raiseError s c).hostFault = s.hostFault := rfl
@[simp] theorem raiseError_answers (c : ErrCode) : (raiseError s c).answers = s.answers := rfl
@[simp] theorem raiseError_turns (c : ErrCode) : (raiseError s c).turns = s.turns := rfl
@[simp] theorem raiseError_host (c : ErrCode) : (raiseError s c).host = s.host := rfl

/-! After `resetBlock`. -/

@[simp] theorem resetBlock_cmd : (resetBlock s).cmd = State.reset.cmd := rfl
@[simp] theorem resetBlock_done : (resetBlock s).done = State.reset.done := rfl
@[simp] theorem resetBlock_err : (resetBlock s).err = State.reset.err := rfl
@[simp] theorem resetBlock_rinf : (resetBlock s).rinf = State.reset.rinf := rfl
@[simp] theorem resetBlock_oncurve : (resetBlock s).oncurve = State.reset.oncurve := rfl
@[simp] theorem resetBlock_ovr : (resetBlock s).ovr = State.reset.ovr := rfl
@[simp] theorem resetBlock_errcode : (resetBlock s).errcode = State.reset.errcode := rfl
@[simp] theorem resetBlock_doneIe : (resetBlock s).doneIe = State.reset.doneIe := rfl
@[simp] theorem resetBlock_inf1 : (resetBlock s).inf1 = State.reset.inf1 := rfl
@[simp] theorem resetBlock_inf2 : (resetBlock s).inf2 = State.reset.inf2 := rfl
@[simp] theorem resetBlock_opa : (resetBlock s).opa = State.reset.opa := rfl
@[simp] theorem resetBlock_opb : (resetBlock s).opb = State.reset.opb := rfl
@[simp] theorem resetBlock_opc : (resetBlock s).opc = State.reset.opc := rfl
@[simp] theorem resetBlock_opd : (resetBlock s).opd = State.reset.opd := rfl
@[simp] theorem resetBlock_opk : (resetBlock s).opk = State.reset.opk := rfl
@[simp] theorem resetBlock_resX : (resetBlock s).resX = State.reset.resX := rfl
@[simp] theorem resetBlock_resY : (resetBlock s).resY = State.reset.resY := rfl
@[simp] theorem resetBlock_eng : (resetBlock s).eng = State.reset.eng := rfl
@[simp] theorem resetBlock_snap : (resetBlock s).snap = State.reset.snap := rfl
@[simp] theorem resetBlock_pm : (resetBlock s).pm = State.reset.pm := rfl
@[simp] theorem resetBlock_inReset : (resetBlock s).inReset = s.inReset := rfl
@[simp] theorem resetBlock_basePage : (resetBlock s).basePage = s.basePage := rfl
@[simp] theorem resetBlock_hostFault : (resetBlock s).hostFault = s.hostFault := rfl
@[simp] theorem resetBlock_answers : (resetBlock s).answers = s.answers := rfl
@[simp] theorem resetBlock_turns : (resetBlock s).turns = s.turns := rfl
@[simp] theorem resetBlock_host : (resetBlock s).host = s.host := rfl

/-! After `writeStatus`. -/

@[simp] theorem writeStatus_cmd (v : Word) : (writeStatus s v).cmd = s.cmd := rfl
@[simp] theorem writeStatus_done (v : Word) : (writeStatus s v).done = (s.done && !v.getLsbD 1) := rfl
@[simp] theorem writeStatus_err (v : Word) : (writeStatus s v).err = (s.err && !v.getLsbD 2) := rfl
@[simp] theorem writeStatus_rinf (v : Word) : (writeStatus s v).rinf = s.rinf := rfl
@[simp] theorem writeStatus_oncurve (v : Word) : (writeStatus s v).oncurve = s.oncurve := rfl
@[simp] theorem writeStatus_ovr (v : Word) : (writeStatus s v).ovr = (s.ovr && !v.getLsbD 5) := rfl
@[simp] theorem writeStatus_errcode (v : Word) : (writeStatus s v).errcode = s.errcode := rfl
@[simp] theorem writeStatus_doneIe (v : Word) : (writeStatus s v).doneIe = s.doneIe := rfl
@[simp] theorem writeStatus_inf1 (v : Word) : (writeStatus s v).inf1 = s.inf1 := rfl
@[simp] theorem writeStatus_inf2 (v : Word) : (writeStatus s v).inf2 = s.inf2 := rfl
@[simp] theorem writeStatus_opa (v : Word) : (writeStatus s v).opa = s.opa := rfl
@[simp] theorem writeStatus_opb (v : Word) : (writeStatus s v).opb = s.opb := rfl
@[simp] theorem writeStatus_opc (v : Word) : (writeStatus s v).opc = s.opc := rfl
@[simp] theorem writeStatus_opd (v : Word) : (writeStatus s v).opd = s.opd := rfl
@[simp] theorem writeStatus_opk (v : Word) : (writeStatus s v).opk = s.opk := rfl
@[simp] theorem writeStatus_resX (v : Word) : (writeStatus s v).resX = s.resX := rfl
@[simp] theorem writeStatus_resY (v : Word) : (writeStatus s v).resY = s.resY := rfl
@[simp] theorem writeStatus_eng (v : Word) : (writeStatus s v).eng = s.eng := rfl
@[simp] theorem writeStatus_snap (v : Word) : (writeStatus s v).snap = s.snap := rfl
@[simp] theorem writeStatus_pm (v : Word) : (writeStatus s v).pm = s.pm := rfl
@[simp] theorem writeStatus_inReset (v : Word) : (writeStatus s v).inReset = s.inReset := rfl
@[simp] theorem writeStatus_basePage (v : Word) : (writeStatus s v).basePage = s.basePage := rfl
@[simp] theorem writeStatus_hostFault (v : Word) : (writeStatus s v).hostFault = s.hostFault := rfl
@[simp] theorem writeStatus_answers (v : Word) : (writeStatus s v).answers = s.answers := rfl
@[simp] theorem writeStatus_turns (v : Word) : (writeStatus s v).turns = s.turns := rfl
@[simp] theorem writeStatus_host (v : Word) : (writeStatus s v).host = s.host := rfl

/-! After `writeIrqEn`. -/

@[simp] theorem writeIrqEn_cmd (v : Word) : (writeIrqEn s v).cmd = s.cmd := rfl
@[simp] theorem writeIrqEn_done (v : Word) : (writeIrqEn s v).done = s.done := rfl
@[simp] theorem writeIrqEn_err (v : Word) : (writeIrqEn s v).err = s.err := rfl
@[simp] theorem writeIrqEn_rinf (v : Word) : (writeIrqEn s v).rinf = s.rinf := rfl
@[simp] theorem writeIrqEn_oncurve (v : Word) : (writeIrqEn s v).oncurve = s.oncurve := rfl
@[simp] theorem writeIrqEn_ovr (v : Word) : (writeIrqEn s v).ovr = s.ovr := rfl
@[simp] theorem writeIrqEn_errcode (v : Word) : (writeIrqEn s v).errcode = s.errcode := rfl
@[simp] theorem writeIrqEn_doneIe (v : Word) : (writeIrqEn s v).doneIe = v.getLsbD 0 := rfl
@[simp] theorem writeIrqEn_inf1 (v : Word) : (writeIrqEn s v).inf1 = s.inf1 := rfl
@[simp] theorem writeIrqEn_inf2 (v : Word) : (writeIrqEn s v).inf2 = s.inf2 := rfl
@[simp] theorem writeIrqEn_opa (v : Word) : (writeIrqEn s v).opa = s.opa := rfl
@[simp] theorem writeIrqEn_opb (v : Word) : (writeIrqEn s v).opb = s.opb := rfl
@[simp] theorem writeIrqEn_opc (v : Word) : (writeIrqEn s v).opc = s.opc := rfl
@[simp] theorem writeIrqEn_opd (v : Word) : (writeIrqEn s v).opd = s.opd := rfl
@[simp] theorem writeIrqEn_opk (v : Word) : (writeIrqEn s v).opk = s.opk := rfl
@[simp] theorem writeIrqEn_resX (v : Word) : (writeIrqEn s v).resX = s.resX := rfl
@[simp] theorem writeIrqEn_resY (v : Word) : (writeIrqEn s v).resY = s.resY := rfl
@[simp] theorem writeIrqEn_eng (v : Word) : (writeIrqEn s v).eng = s.eng := rfl
@[simp] theorem writeIrqEn_snap (v : Word) : (writeIrqEn s v).snap = s.snap := rfl
@[simp] theorem writeIrqEn_pm (v : Word) : (writeIrqEn s v).pm = s.pm := rfl
@[simp] theorem writeIrqEn_inReset (v : Word) : (writeIrqEn s v).inReset = s.inReset := rfl
@[simp] theorem writeIrqEn_basePage (v : Word) : (writeIrqEn s v).basePage = s.basePage := rfl
@[simp] theorem writeIrqEn_hostFault (v : Word) : (writeIrqEn s v).hostFault = s.hostFault := rfl
@[simp] theorem writeIrqEn_answers (v : Word) : (writeIrqEn s v).answers = s.answers := rfl
@[simp] theorem writeIrqEn_turns (v : Word) : (writeIrqEn s v).turns = s.turns := rfl
@[simp] theorem writeIrqEn_host (v : Word) : (writeIrqEn s v).host = s.host := rfl

/-! After `writePtFlags`. -/

@[simp] theorem writePtFlags_cmd (v : Word) : (writePtFlags s v).cmd = s.cmd := rfl
@[simp] theorem writePtFlags_done (v : Word) : (writePtFlags s v).done = s.done := rfl
@[simp] theorem writePtFlags_err (v : Word) : (writePtFlags s v).err = s.err := rfl
@[simp] theorem writePtFlags_rinf (v : Word) : (writePtFlags s v).rinf = s.rinf := rfl
@[simp] theorem writePtFlags_oncurve (v : Word) : (writePtFlags s v).oncurve = s.oncurve := rfl
@[simp] theorem writePtFlags_ovr (v : Word) : (writePtFlags s v).ovr = s.ovr := rfl
@[simp] theorem writePtFlags_errcode (v : Word) : (writePtFlags s v).errcode = s.errcode := rfl
@[simp] theorem writePtFlags_doneIe (v : Word) : (writePtFlags s v).doneIe = s.doneIe := rfl
@[simp] theorem writePtFlags_inf1 (v : Word) : (writePtFlags s v).inf1 = v.getLsbD 0 := rfl
@[simp] theorem writePtFlags_inf2 (v : Word) : (writePtFlags s v).inf2 = v.getLsbD 1 := rfl
@[simp] theorem writePtFlags_opa (v : Word) : (writePtFlags s v).opa = s.opa := rfl
@[simp] theorem writePtFlags_opb (v : Word) : (writePtFlags s v).opb = s.opb := rfl
@[simp] theorem writePtFlags_opc (v : Word) : (writePtFlags s v).opc = s.opc := rfl
@[simp] theorem writePtFlags_opd (v : Word) : (writePtFlags s v).opd = s.opd := rfl
@[simp] theorem writePtFlags_opk (v : Word) : (writePtFlags s v).opk = s.opk := rfl
@[simp] theorem writePtFlags_resX (v : Word) : (writePtFlags s v).resX = s.resX := rfl
@[simp] theorem writePtFlags_resY (v : Word) : (writePtFlags s v).resY = s.resY := rfl
@[simp] theorem writePtFlags_eng (v : Word) : (writePtFlags s v).eng = s.eng := rfl
@[simp] theorem writePtFlags_snap (v : Word) : (writePtFlags s v).snap = s.snap := rfl
@[simp] theorem writePtFlags_pm (v : Word) : (writePtFlags s v).pm = s.pm := rfl
@[simp] theorem writePtFlags_inReset (v : Word) : (writePtFlags s v).inReset = s.inReset := rfl
@[simp] theorem writePtFlags_basePage (v : Word) : (writePtFlags s v).basePage = s.basePage := rfl
@[simp] theorem writePtFlags_hostFault (v : Word) : (writePtFlags s v).hostFault = s.hostFault := rfl
@[simp] theorem writePtFlags_answers (v : Word) : (writePtFlags s v).answers = s.answers := rfl
@[simp] theorem writePtFlags_turns (v : Word) : (writePtFlags s v).turns = s.turns := rfl
@[simp] theorem writePtFlags_host (v : Word) : (writePtFlags s v).host = s.host := rfl

/-! After `pushAnswer`. -/

@[simp] theorem pushAnswer_cmd (a : Answer) : (pushAnswer s a).cmd = s.cmd := rfl
@[simp] theorem pushAnswer_done (a : Answer) : (pushAnswer s a).done = s.done := rfl
@[simp] theorem pushAnswer_err (a : Answer) : (pushAnswer s a).err = s.err := rfl
@[simp] theorem pushAnswer_rinf (a : Answer) : (pushAnswer s a).rinf = s.rinf := rfl
@[simp] theorem pushAnswer_oncurve (a : Answer) : (pushAnswer s a).oncurve = s.oncurve := rfl
@[simp] theorem pushAnswer_ovr (a : Answer) : (pushAnswer s a).ovr = s.ovr := rfl
@[simp] theorem pushAnswer_errcode (a : Answer) : (pushAnswer s a).errcode = s.errcode := rfl
@[simp] theorem pushAnswer_doneIe (a : Answer) : (pushAnswer s a).doneIe = s.doneIe := rfl
@[simp] theorem pushAnswer_inf1 (a : Answer) : (pushAnswer s a).inf1 = s.inf1 := rfl
@[simp] theorem pushAnswer_inf2 (a : Answer) : (pushAnswer s a).inf2 = s.inf2 := rfl
@[simp] theorem pushAnswer_opa (a : Answer) : (pushAnswer s a).opa = s.opa := rfl
@[simp] theorem pushAnswer_opb (a : Answer) : (pushAnswer s a).opb = s.opb := rfl
@[simp] theorem pushAnswer_opc (a : Answer) : (pushAnswer s a).opc = s.opc := rfl
@[simp] theorem pushAnswer_opd (a : Answer) : (pushAnswer s a).opd = s.opd := rfl
@[simp] theorem pushAnswer_opk (a : Answer) : (pushAnswer s a).opk = s.opk := rfl
@[simp] theorem pushAnswer_resX (a : Answer) : (pushAnswer s a).resX = s.resX := rfl
@[simp] theorem pushAnswer_resY (a : Answer) : (pushAnswer s a).resY = s.resY := rfl
@[simp] theorem pushAnswer_eng (a : Answer) : (pushAnswer s a).eng = s.eng := rfl
@[simp] theorem pushAnswer_snap (a : Answer) : (pushAnswer s a).snap = s.snap := rfl
@[simp] theorem pushAnswer_pm (a : Answer) : (pushAnswer s a).pm = s.pm := rfl
@[simp] theorem pushAnswer_inReset (a : Answer) : (pushAnswer s a).inReset = s.inReset := rfl
@[simp] theorem pushAnswer_basePage (a : Answer) : (pushAnswer s a).basePage = s.basePage := rfl
@[simp] theorem pushAnswer_hostFault (a : Answer) : (pushAnswer s a).hostFault = s.hostFault := rfl
@[simp] theorem pushAnswer_answers (a : Answer) : (pushAnswer s a).answers = a :: s.answers := rfl
@[simp] theorem pushAnswer_turns (a : Answer) : (pushAnswer s a).turns = s.turns := rfl
@[simp] theorem pushAnswer_host (a : Answer) : (pushAnswer s a).host = s.host := rfl

/-! After `illegalAccess`. -/

@[simp] theorem illegalAccess_cmd : (illegalAccess s).cmd = s.cmd := rfl
@[simp] theorem illegalAccess_done : (illegalAccess s).done = s.done := rfl
@[simp] theorem illegalAccess_err : (illegalAccess s).err = s.err := rfl
@[simp] theorem illegalAccess_rinf : (illegalAccess s).rinf = s.rinf := rfl
@[simp] theorem illegalAccess_oncurve : (illegalAccess s).oncurve = s.oncurve := rfl
@[simp] theorem illegalAccess_ovr : (illegalAccess s).ovr = s.ovr := rfl
@[simp] theorem illegalAccess_errcode : (illegalAccess s).errcode = s.errcode := rfl
@[simp] theorem illegalAccess_doneIe : (illegalAccess s).doneIe = s.doneIe := rfl
@[simp] theorem illegalAccess_inf1 : (illegalAccess s).inf1 = s.inf1 := rfl
@[simp] theorem illegalAccess_inf2 : (illegalAccess s).inf2 = s.inf2 := rfl
@[simp] theorem illegalAccess_opa : (illegalAccess s).opa = s.opa := rfl
@[simp] theorem illegalAccess_opb : (illegalAccess s).opb = s.opb := rfl
@[simp] theorem illegalAccess_opc : (illegalAccess s).opc = s.opc := rfl
@[simp] theorem illegalAccess_opd : (illegalAccess s).opd = s.opd := rfl
@[simp] theorem illegalAccess_opk : (illegalAccess s).opk = s.opk := rfl
@[simp] theorem illegalAccess_resX : (illegalAccess s).resX = s.resX := rfl
@[simp] theorem illegalAccess_resY : (illegalAccess s).resY = s.resY := rfl
@[simp] theorem illegalAccess_eng : (illegalAccess s).eng = s.eng := rfl
@[simp] theorem illegalAccess_snap : (illegalAccess s).snap = s.snap := rfl
@[simp] theorem illegalAccess_pm : (illegalAccess s).pm = s.pm := rfl
@[simp] theorem illegalAccess_inReset : (illegalAccess s).inReset = s.inReset := rfl
@[simp] theorem illegalAccess_basePage : (illegalAccess s).basePage = s.basePage := rfl
@[simp] theorem illegalAccess_hostFault : (illegalAccess s).hostFault = true := rfl
@[simp] theorem illegalAccess_answers : (illegalAccess s).answers = .error :: s.answers := rfl
@[simp] theorem illegalAccess_turns : (illegalAccess s).turns = s.turns := rfl
@[simp] theorem illegalAccess_host : (illegalAccess s).host = s.host := rfl

/-! After `pmInit`. -/

@[simp] theorem pmInit_cmd (q : Point) : (pmInit s q).cmd = s.cmd := rfl
@[simp] theorem pmInit_done (q : Point) : (pmInit s q).done = s.done := rfl
@[simp] theorem pmInit_err (q : Point) : (pmInit s q).err = s.err := rfl
@[simp] theorem pmInit_rinf (q : Point) : (pmInit s q).rinf = s.rinf := rfl
@[simp] theorem pmInit_oncurve (q : Point) : (pmInit s q).oncurve = s.oncurve := rfl
@[simp] theorem pmInit_ovr (q : Point) : (pmInit s q).ovr = s.ovr := rfl
@[simp] theorem pmInit_errcode (q : Point) : (pmInit s q).errcode = s.errcode := rfl
@[simp] theorem pmInit_doneIe (q : Point) : (pmInit s q).doneIe = s.doneIe := rfl
@[simp] theorem pmInit_inf1 (q : Point) : (pmInit s q).inf1 = s.inf1 := rfl
@[simp] theorem pmInit_inf2 (q : Point) : (pmInit s q).inf2 = s.inf2 := rfl
@[simp] theorem pmInit_opa (q : Point) : (pmInit s q).opa = s.opa := rfl
@[simp] theorem pmInit_opb (q : Point) : (pmInit s q).opb = s.opb := rfl
@[simp] theorem pmInit_opc (q : Point) : (pmInit s q).opc = s.opc := rfl
@[simp] theorem pmInit_opd (q : Point) : (pmInit s q).opd = s.opd := rfl
@[simp] theorem pmInit_opk (q : Point) : (pmInit s q).opk = s.opk := rfl
@[simp] theorem pmInit_resX (q : Point) : (pmInit s q).resX = s.resX := rfl
@[simp] theorem pmInit_resY (q : Point) : (pmInit s q).resY = s.resY := rfl
@[simp] theorem pmInit_eng (q : Point) : (pmInit s q).eng = s.eng := rfl
@[simp] theorem pmInit_snap (q : Point) : (pmInit s q).snap = s.snap := rfl
@[simp] theorem pmInit_pm (q : Point) :
    (pmInit s q).pm =
      { base := PointReg.ofPoint q, acc := PointReg.ofPoint q, idx := firstIdx s.snap.k, phase := .dbl,
        started := true } := rfl
@[simp] theorem pmInit_inReset (q : Point) : (pmInit s q).inReset = s.inReset := rfl
@[simp] theorem pmInit_basePage (q : Point) : (pmInit s q).basePage = s.basePage := rfl
@[simp] theorem pmInit_hostFault (q : Point) : (pmInit s q).hostFault = s.hostFault := rfl
@[simp] theorem pmInit_answers (q : Point) : (pmInit s q).answers = s.answers := rfl
@[simp] theorem pmInit_turns (q : Point) : (pmInit s q).turns = s.turns := rfl
@[simp] theorem pmInit_host (q : Point) : (pmInit s q).host = s.host := rfl

/-! After `pmAdd`. -/

@[simp] theorem pmAdd_cmd : (pmAdd s).cmd = s.cmd := rfl
@[simp] theorem pmAdd_done : (pmAdd s).done = s.done := rfl
@[simp] theorem pmAdd_err : (pmAdd s).err = s.err := rfl
@[simp] theorem pmAdd_rinf : (pmAdd s).rinf = s.rinf := rfl
@[simp] theorem pmAdd_oncurve : (pmAdd s).oncurve = s.oncurve := rfl
@[simp] theorem pmAdd_ovr : (pmAdd s).ovr = s.ovr := rfl
@[simp] theorem pmAdd_errcode : (pmAdd s).errcode = s.errcode := rfl
@[simp] theorem pmAdd_doneIe : (pmAdd s).doneIe = s.doneIe := rfl
@[simp] theorem pmAdd_inf1 : (pmAdd s).inf1 = s.inf1 := rfl
@[simp] theorem pmAdd_inf2 : (pmAdd s).inf2 = s.inf2 := rfl
@[simp] theorem pmAdd_opa : (pmAdd s).opa = s.opa := rfl
@[simp] theorem pmAdd_opb : (pmAdd s).opb = s.opb := rfl
@[simp] theorem pmAdd_opc : (pmAdd s).opc = s.opc := rfl
@[simp] theorem pmAdd_opd : (pmAdd s).opd = s.opd := rfl
@[simp] theorem pmAdd_opk : (pmAdd s).opk = s.opk := rfl
@[simp] theorem pmAdd_resX : (pmAdd s).resX = s.resX := rfl
@[simp] theorem pmAdd_resY : (pmAdd s).resY = s.resY := rfl
@[simp] theorem pmAdd_eng : (pmAdd s).eng = s.eng := rfl
@[simp] theorem pmAdd_snap : (pmAdd s).snap = s.snap := rfl
@[simp] theorem pmAdd_pm :
    (pmAdd s).pm =
      { s.pm with
        acc := PointReg.ofPoint (add s.pm.acc.point s.pm.base.point), idx := s.pm.idx - 1, phase := .dbl } := rfl
@[simp] theorem pmAdd_inReset : (pmAdd s).inReset = s.inReset := rfl
@[simp] theorem pmAdd_basePage : (pmAdd s).basePage = s.basePage := rfl
@[simp] theorem pmAdd_hostFault : (pmAdd s).hostFault = s.hostFault := rfl
@[simp] theorem pmAdd_answers : (pmAdd s).answers = s.answers := rfl
@[simp] theorem pmAdd_turns : (pmAdd s).turns = s.turns := rfl
@[simp] theorem pmAdd_host : (pmAdd s).host = s.host := rfl

/-! After `setTurns`. -/

@[simp] theorem setTurns_cmd (ts : List Turn) : (setTurns s ts).cmd = s.cmd := rfl
@[simp] theorem setTurns_done (ts : List Turn) : (setTurns s ts).done = s.done := rfl
@[simp] theorem setTurns_err (ts : List Turn) : (setTurns s ts).err = s.err := rfl
@[simp] theorem setTurns_rinf (ts : List Turn) : (setTurns s ts).rinf = s.rinf := rfl
@[simp] theorem setTurns_oncurve (ts : List Turn) : (setTurns s ts).oncurve = s.oncurve := rfl
@[simp] theorem setTurns_ovr (ts : List Turn) : (setTurns s ts).ovr = s.ovr := rfl
@[simp] theorem setTurns_errcode (ts : List Turn) : (setTurns s ts).errcode = s.errcode := rfl
@[simp] theorem setTurns_doneIe (ts : List Turn) : (setTurns s ts).doneIe = s.doneIe := rfl
@[simp] theorem setTurns_inf1 (ts : List Turn) : (setTurns s ts).inf1 = s.inf1 := rfl
@[simp] theorem setTurns_inf2 (ts : List Turn) : (setTurns s ts).inf2 = s.inf2 := rfl
@[simp] theorem setTurns_opa (ts : List Turn) : (setTurns s ts).opa = s.opa := rfl
@[simp] theorem setTurns_opb (ts : List Turn) : (setTurns s ts).opb = s.opb := rfl
@[simp] theorem setTurns_opc (ts : List Turn) : (setTurns s ts).opc = s.opc := rfl
@[simp] theorem setTurns_opd (ts : List Turn) : (setTurns s ts).opd = s.opd := rfl
@[simp] theorem setTurns_opk (ts : List Turn) : (setTurns s ts).opk = s.opk := rfl
@[simp] theorem setTurns_resX (ts : List Turn) : (setTurns s ts).resX = s.resX := rfl
@[simp] theorem setTurns_resY (ts : List Turn) : (setTurns s ts).resY = s.resY := rfl
@[simp] theorem setTurns_eng (ts : List Turn) : (setTurns s ts).eng = s.eng := rfl
@[simp] theorem setTurns_snap (ts : List Turn) : (setTurns s ts).snap = s.snap := rfl
@[simp] theorem setTurns_pm (ts : List Turn) : (setTurns s ts).pm = s.pm := rfl
@[simp] theorem setTurns_inReset (ts : List Turn) : (setTurns s ts).inReset = s.inReset := rfl
@[simp] theorem setTurns_basePage (ts : List Turn) : (setTurns s ts).basePage = s.basePage := rfl
@[simp] theorem setTurns_hostFault (ts : List Turn) : (setTurns s ts).hostFault = s.hostFault := rfl
@[simp] theorem setTurns_answers (ts : List Turn) : (setTurns s ts).answers = s.answers := rfl
@[simp] theorem setTurns_turns (ts : List Turn) : (setTurns s ts).turns = ts := rfl
@[simp] theorem setTurns_host (ts : List Turn) : (setTurns s ts).host = s.host := rfl

/-! After `setReset`. -/

@[simp] theorem setReset_cmd (b : Bool) : (setReset s b).cmd = s.cmd := rfl
@[simp] theorem setReset_done (b : Bool) : (setReset s b).done = s.done := rfl
@[simp] theorem setReset_err (b : Bool) : (setReset s b).err = s.err := rfl
@[simp] theorem setReset_rinf (b : Bool) : (setReset s b).rinf = s.rinf := rfl
@[simp] theorem setReset_oncurve (b : Bool) : (setReset s b).oncurve = s.oncurve := rfl
@[simp] theorem setReset_ovr (b : Bool) : (setReset s b).ovr = s.ovr := rfl
@[simp] theorem setReset_errcode (b : Bool) : (setReset s b).errcode = s.errcode := rfl
@[simp] theorem setReset_doneIe (b : Bool) : (setReset s b).doneIe = s.doneIe := rfl
@[simp] theorem setReset_inf1 (b : Bool) : (setReset s b).inf1 = s.inf1 := rfl
@[simp] theorem setReset_inf2 (b : Bool) : (setReset s b).inf2 = s.inf2 := rfl
@[simp] theorem setReset_opa (b : Bool) : (setReset s b).opa = s.opa := rfl
@[simp] theorem setReset_opb (b : Bool) : (setReset s b).opb = s.opb := rfl
@[simp] theorem setReset_opc (b : Bool) : (setReset s b).opc = s.opc := rfl
@[simp] theorem setReset_opd (b : Bool) : (setReset s b).opd = s.opd := rfl
@[simp] theorem setReset_opk (b : Bool) : (setReset s b).opk = s.opk := rfl
@[simp] theorem setReset_resX (b : Bool) : (setReset s b).resX = s.resX := rfl
@[simp] theorem setReset_resY (b : Bool) : (setReset s b).resY = s.resY := rfl
@[simp] theorem setReset_eng (b : Bool) : (setReset s b).eng = s.eng := rfl
@[simp] theorem setReset_snap (b : Bool) : (setReset s b).snap = s.snap := rfl
@[simp] theorem setReset_pm (b : Bool) : (setReset s b).pm = s.pm := rfl
@[simp] theorem setReset_inReset (b : Bool) : (setReset s b).inReset = b := rfl
@[simp] theorem setReset_basePage (b : Bool) : (setReset s b).basePage = s.basePage := rfl
@[simp] theorem setReset_hostFault (b : Bool) : (setReset s b).hostFault = s.hostFault := rfl
@[simp] theorem setReset_answers (b : Bool) : (setReset s b).answers = s.answers := rfl
@[simp] theorem setReset_turns (b : Bool) : (setReset s b).turns = s.turns := rfl
@[simp] theorem setReset_host (b : Bool) : (setReset s b).host = s.host := rfl

/-! After `goTo`. -/

@[simp] theorem goTo_cmd (n : Nat) : (goTo s n).cmd = s.cmd := rfl
@[simp] theorem goTo_done (n : Nat) : (goTo s n).done = s.done := rfl
@[simp] theorem goTo_err (n : Nat) : (goTo s n).err = s.err := rfl
@[simp] theorem goTo_rinf (n : Nat) : (goTo s n).rinf = s.rinf := rfl
@[simp] theorem goTo_oncurve (n : Nat) : (goTo s n).oncurve = s.oncurve := rfl
@[simp] theorem goTo_ovr (n : Nat) : (goTo s n).ovr = s.ovr := rfl
@[simp] theorem goTo_errcode (n : Nat) : (goTo s n).errcode = s.errcode := rfl
@[simp] theorem goTo_doneIe (n : Nat) : (goTo s n).doneIe = s.doneIe := rfl
@[simp] theorem goTo_inf1 (n : Nat) : (goTo s n).inf1 = s.inf1 := rfl
@[simp] theorem goTo_inf2 (n : Nat) : (goTo s n).inf2 = s.inf2 := rfl
@[simp] theorem goTo_opa (n : Nat) : (goTo s n).opa = s.opa := rfl
@[simp] theorem goTo_opb (n : Nat) : (goTo s n).opb = s.opb := rfl
@[simp] theorem goTo_opc (n : Nat) : (goTo s n).opc = s.opc := rfl
@[simp] theorem goTo_opd (n : Nat) : (goTo s n).opd = s.opd := rfl
@[simp] theorem goTo_opk (n : Nat) : (goTo s n).opk = s.opk := rfl
@[simp] theorem goTo_resX (n : Nat) : (goTo s n).resX = s.resX := rfl
@[simp] theorem goTo_resY (n : Nat) : (goTo s n).resY = s.resY := rfl
@[simp] theorem goTo_eng (n : Nat) : (goTo s n).eng = s.eng := rfl
@[simp] theorem goTo_snap (n : Nat) : (goTo s n).snap = s.snap := rfl
@[simp] theorem goTo_pm (n : Nat) : (goTo s n).pm = s.pm := rfl
@[simp] theorem goTo_inReset (n : Nat) : (goTo s n).inReset = s.inReset := rfl
@[simp] theorem goTo_basePage (n : Nat) : (goTo s n).basePage = s.basePage := rfl
@[simp] theorem goTo_hostFault (n : Nat) : (goTo s n).hostFault = s.hostFault := rfl
@[simp] theorem goTo_answers (n : Nat) : (goTo s n).answers = s.answers := rfl
@[simp] theorem goTo_turns (n : Nat) : (goTo s n).turns = s.turns := rfl
@[simp] theorem goTo_host (n : Nat) : (goTo s n).host = { s.host with pc := n } := rfl

/-! After `setTemp`. -/

@[simp] theorem setTemp_cmd (t : Nat) (v : Word) : (setTemp s t v).cmd = s.cmd := rfl
@[simp] theorem setTemp_done (t : Nat) (v : Word) : (setTemp s t v).done = s.done := rfl
@[simp] theorem setTemp_err (t : Nat) (v : Word) : (setTemp s t v).err = s.err := rfl
@[simp] theorem setTemp_rinf (t : Nat) (v : Word) : (setTemp s t v).rinf = s.rinf := rfl
@[simp] theorem setTemp_oncurve (t : Nat) (v : Word) : (setTemp s t v).oncurve = s.oncurve := rfl
@[simp] theorem setTemp_ovr (t : Nat) (v : Word) : (setTemp s t v).ovr = s.ovr := rfl
@[simp] theorem setTemp_errcode (t : Nat) (v : Word) : (setTemp s t v).errcode = s.errcode := rfl
@[simp] theorem setTemp_doneIe (t : Nat) (v : Word) : (setTemp s t v).doneIe = s.doneIe := rfl
@[simp] theorem setTemp_inf1 (t : Nat) (v : Word) : (setTemp s t v).inf1 = s.inf1 := rfl
@[simp] theorem setTemp_inf2 (t : Nat) (v : Word) : (setTemp s t v).inf2 = s.inf2 := rfl
@[simp] theorem setTemp_opa (t : Nat) (v : Word) : (setTemp s t v).opa = s.opa := rfl
@[simp] theorem setTemp_opb (t : Nat) (v : Word) : (setTemp s t v).opb = s.opb := rfl
@[simp] theorem setTemp_opc (t : Nat) (v : Word) : (setTemp s t v).opc = s.opc := rfl
@[simp] theorem setTemp_opd (t : Nat) (v : Word) : (setTemp s t v).opd = s.opd := rfl
@[simp] theorem setTemp_opk (t : Nat) (v : Word) : (setTemp s t v).opk = s.opk := rfl
@[simp] theorem setTemp_resX (t : Nat) (v : Word) : (setTemp s t v).resX = s.resX := rfl
@[simp] theorem setTemp_resY (t : Nat) (v : Word) : (setTemp s t v).resY = s.resY := rfl
@[simp] theorem setTemp_eng (t : Nat) (v : Word) : (setTemp s t v).eng = s.eng := rfl
@[simp] theorem setTemp_snap (t : Nat) (v : Word) : (setTemp s t v).snap = s.snap := rfl
@[simp] theorem setTemp_pm (t : Nat) (v : Word) : (setTemp s t v).pm = s.pm := rfl
@[simp] theorem setTemp_inReset (t : Nat) (v : Word) : (setTemp s t v).inReset = s.inReset := rfl
@[simp] theorem setTemp_basePage (t : Nat) (v : Word) : (setTemp s t v).basePage = s.basePage := rfl
@[simp] theorem setTemp_hostFault (t : Nat) (v : Word) : (setTemp s t v).hostFault = s.hostFault := rfl
@[simp] theorem setTemp_answers (t : Nat) (v : Word) : (setTemp s t v).answers = s.answers := rfl
@[simp] theorem setTemp_turns (t : Nat) (v : Word) : (setTemp s t v).turns = s.turns := rfl
@[simp] theorem setTemp_host (t : Nat) (v : Word) :
    (setTemp s t v).host =
      { s.host with temps := tempSet s.host.temps t v } := rfl

/-! After `pmDouble`: only the working registers change. -/

@[simp] theorem pmDouble_cmd : (pmDouble s).cmd = s.cmd := by unfold pmDouble; split <;> rfl
@[simp] theorem pmDouble_done : (pmDouble s).done = s.done := by unfold pmDouble; split <;> rfl
@[simp] theorem pmDouble_err : (pmDouble s).err = s.err := by unfold pmDouble; split <;> rfl
@[simp] theorem pmDouble_rinf : (pmDouble s).rinf = s.rinf := by unfold pmDouble; split <;> rfl
@[simp] theorem pmDouble_oncurve : (pmDouble s).oncurve = s.oncurve := by unfold pmDouble; split <;> rfl
@[simp] theorem pmDouble_ovr : (pmDouble s).ovr = s.ovr := by unfold pmDouble; split <;> rfl
@[simp] theorem pmDouble_errcode : (pmDouble s).errcode = s.errcode := by unfold pmDouble; split <;> rfl
@[simp] theorem pmDouble_doneIe : (pmDouble s).doneIe = s.doneIe := by unfold pmDouble; split <;> rfl
@[simp] theorem pmDouble_inf1 : (pmDouble s).inf1 = s.inf1 := by unfold pmDouble; split <;> rfl
@[simp] theorem pmDouble_inf2 : (pmDouble s).inf2 = s.inf2 := by unfold pmDouble; split <;> rfl
@[simp] theorem pmDouble_opa : (pmDouble s).opa = s.opa := by unfold pmDouble; split <;> rfl
@[simp] theorem pmDouble_opb : (pmDouble s).opb = s.opb := by unfold pmDouble; split <;> rfl
@[simp] theorem pmDouble_opc : (pmDouble s).opc = s.opc := by unfold pmDouble; split <;> rfl
@[simp] theorem pmDouble_opd : (pmDouble s).opd = s.opd := by unfold pmDouble; split <;> rfl
@[simp] theorem pmDouble_opk : (pmDouble s).opk = s.opk := by unfold pmDouble; split <;> rfl
@[simp] theorem pmDouble_resX : (pmDouble s).resX = s.resX := by unfold pmDouble; split <;> rfl
@[simp] theorem pmDouble_resY : (pmDouble s).resY = s.resY := by unfold pmDouble; split <;> rfl
@[simp] theorem pmDouble_eng : (pmDouble s).eng = s.eng := by unfold pmDouble; split <;> rfl
@[simp] theorem pmDouble_snap : (pmDouble s).snap = s.snap := by unfold pmDouble; split <;> rfl
@[simp] theorem pmDouble_inReset : (pmDouble s).inReset = s.inReset := by unfold pmDouble; split <;> rfl
@[simp] theorem pmDouble_basePage : (pmDouble s).basePage = s.basePage := by unfold pmDouble; split <;> rfl
@[simp] theorem pmDouble_hostFault : (pmDouble s).hostFault = s.hostFault := by unfold pmDouble; split <;> rfl
@[simp] theorem pmDouble_answers : (pmDouble s).answers = s.answers := by unfold pmDouble; split <;> rfl
@[simp] theorem pmDouble_turns : (pmDouble s).turns = s.turns := by unfold pmDouble; split <;> rfl
@[simp] theorem pmDouble_host : (pmDouble s).host = s.host := by unfold pmDouble; split <;> rfl

@[simp] theorem pmDouble_pm_acc : (pmDouble s).pm.acc = PointReg.ofPoint (dbl s.pm.acc.point) := by
  unfold pmDouble; split <;> rfl
@[simp] theorem pmDouble_pm_base : (pmDouble s).pm.base = s.pm.base := by unfold pmDouble; split <;> rfl
@[simp] theorem pmDouble_pm_started : (pmDouble s).pm.started = s.pm.started := by unfold pmDouble; split <;> rfl
theorem pmDouble_pm_phase :
    (pmDouble s).pm.phase = if s.snap.k.getLsbD s.pm.idx.toNat then .add else s.pm.phase := by
  unfold pmDouble; split <;> rfl
theorem pmDouble_pm_idx :
    (pmDouble s).pm.idx = if s.snap.k.getLsbD s.pm.idx.toNat then s.pm.idx else s.pm.idx - 1 := by
  unfold pmDouble; split <;> rfl

/-! After a host write of a 256-bit register: the five operand registers only (10_state.md R24, R26). -/

@[simp] theorem hostSetWide_cmd (v : Wide) (r : WideReg) : (hostSetWide s v r).cmd = s.cmd := by cases r <;> rfl
@[simp] theorem hostSetWide_done (v : Wide) (r : WideReg) : (hostSetWide s v r).done = s.done := by cases r <;> rfl
@[simp] theorem hostSetWide_err (v : Wide) (r : WideReg) : (hostSetWide s v r).err = s.err := by cases r <;> rfl
@[simp] theorem hostSetWide_rinf (v : Wide) (r : WideReg) : (hostSetWide s v r).rinf = s.rinf := by cases r <;> rfl
@[simp] theorem hostSetWide_oncurve (v : Wide) (r : WideReg) : (hostSetWide s v r).oncurve = s.oncurve := by cases r <;> rfl
@[simp] theorem hostSetWide_ovr (v : Wide) (r : WideReg) : (hostSetWide s v r).ovr = s.ovr := by cases r <;> rfl
@[simp] theorem hostSetWide_errcode (v : Wide) (r : WideReg) : (hostSetWide s v r).errcode = s.errcode := by cases r <;> rfl
@[simp] theorem hostSetWide_doneIe (v : Wide) (r : WideReg) : (hostSetWide s v r).doneIe = s.doneIe := by cases r <;> rfl
@[simp] theorem hostSetWide_inf1 (v : Wide) (r : WideReg) : (hostSetWide s v r).inf1 = s.inf1 := by cases r <;> rfl
@[simp] theorem hostSetWide_inf2 (v : Wide) (r : WideReg) : (hostSetWide s v r).inf2 = s.inf2 := by cases r <;> rfl
@[simp] theorem hostSetWide_opa (v : Wide) (r : WideReg) :
    (hostSetWide s v r).opa = if r = .opa then v else s.opa := by cases r <;> rfl
@[simp] theorem hostSetWide_opb (v : Wide) (r : WideReg) :
    (hostSetWide s v r).opb = if r = .opb then v else s.opb := by cases r <;> rfl
@[simp] theorem hostSetWide_opc (v : Wide) (r : WideReg) :
    (hostSetWide s v r).opc = if r = .opc then v else s.opc := by cases r <;> rfl
@[simp] theorem hostSetWide_opd (v : Wide) (r : WideReg) :
    (hostSetWide s v r).opd = if r = .opd then v else s.opd := by cases r <;> rfl
@[simp] theorem hostSetWide_opk (v : Wide) (r : WideReg) :
    (hostSetWide s v r).opk = if r = .opk then v else s.opk := by cases r <;> rfl
@[simp] theorem hostSetWide_resX (v : Wide) (r : WideReg) : (hostSetWide s v r).resX = s.resX := by cases r <;> rfl
@[simp] theorem hostSetWide_resY (v : Wide) (r : WideReg) : (hostSetWide s v r).resY = s.resY := by cases r <;> rfl
@[simp] theorem hostSetWide_eng (v : Wide) (r : WideReg) : (hostSetWide s v r).eng = s.eng := by cases r <;> rfl
@[simp] theorem hostSetWide_snap (v : Wide) (r : WideReg) : (hostSetWide s v r).snap = s.snap := by cases r <;> rfl
@[simp] theorem hostSetWide_pm (v : Wide) (r : WideReg) : (hostSetWide s v r).pm = s.pm := by cases r <;> rfl
@[simp] theorem hostSetWide_inReset (v : Wide) (r : WideReg) : (hostSetWide s v r).inReset = s.inReset := by cases r <;> rfl
@[simp] theorem hostSetWide_basePage (v : Wide) (r : WideReg) : (hostSetWide s v r).basePage = s.basePage := by cases r <;> rfl
@[simp] theorem hostSetWide_hostFault (v : Wide) (r : WideReg) : (hostSetWide s v r).hostFault = s.hostFault := by cases r <;> rfl
@[simp] theorem hostSetWide_answers (v : Wide) (r : WideReg) : (hostSetWide s v r).answers = s.answers := by cases r <;> rfl
@[simp] theorem hostSetWide_turns (v : Wide) (r : WideReg) : (hostSetWide s v r).turns = s.turns := by cases r <;> rfl
@[simp] theorem hostSetWide_host (v : Wide) (r : WideReg) : (hostSetWide s v r).host = s.host := by cases r <;> rfl

/-! BUSY and the engine's command after each update (10_state.md R27; 30_encoding.md R74). -/

theorem engFor_ne_idle (op : BitVec 4) : engFor op ≠ .idle := by
  unfold engFor; split <;> nofun

@[simp] theorem accept_busy (w : Word) : (accept s w).busy = true := by
  simpa [State.busy] using engFor_ne_idle (splitWord w).op
@[simp] theorem completeOk_busy (rx ry : Wide) (ri oc : Bool) : (completeOk s rx ry ri oc).busy = false := rfl
@[simp] theorem raiseError_busy (c : ErrCode) : (raiseError s c).busy = false := rfl
@[simp] theorem resetBlock_busy : (resetBlock s).busy = false := rfl
@[simp] theorem accept_snapCommand (w : Word) : snapCommand (accept s w) = decodeWord w := rfl

@[simp] theorem overrun_busy : (overrun s).busy = s.busy := rfl
@[simp] theorem overrun_snapCommand :
    snapCommand (overrun s) = snapCommand s := rfl
@[simp] theorem writeStatus_busy (v : Word) : (writeStatus s v).busy = s.busy := rfl
@[simp] theorem writeStatus_snapCommand (v : Word) :
    snapCommand (writeStatus s v) = snapCommand s := rfl
@[simp] theorem writeIrqEn_busy (v : Word) : (writeIrqEn s v).busy = s.busy := rfl
@[simp] theorem writeIrqEn_snapCommand (v : Word) :
    snapCommand (writeIrqEn s v) = snapCommand s := rfl
@[simp] theorem writePtFlags_busy (v : Word) : (writePtFlags s v).busy = s.busy := rfl
@[simp] theorem writePtFlags_snapCommand (v : Word) :
    snapCommand (writePtFlags s v) = snapCommand s := rfl
@[simp] theorem pushAnswer_busy (a : Answer) : (pushAnswer s a).busy = s.busy := rfl
@[simp] theorem pushAnswer_snapCommand (a : Answer) :
    snapCommand (pushAnswer s a) = snapCommand s := rfl
@[simp] theorem illegalAccess_busy : (illegalAccess s).busy = s.busy := rfl
@[simp] theorem illegalAccess_snapCommand :
    snapCommand (illegalAccess s) = snapCommand s := rfl
@[simp] theorem pmInit_busy (q : Point) : (pmInit s q).busy = s.busy := rfl
@[simp] theorem pmInit_snapCommand (q : Point) :
    snapCommand (pmInit s q) = snapCommand s := rfl
@[simp] theorem pmAdd_busy : (pmAdd s).busy = s.busy := rfl
@[simp] theorem pmAdd_snapCommand :
    snapCommand (pmAdd s) = snapCommand s := rfl
@[simp] theorem setTurns_busy (ts : List Turn) : (setTurns s ts).busy = s.busy := rfl
@[simp] theorem setTurns_snapCommand (ts : List Turn) :
    snapCommand (setTurns s ts) = snapCommand s := rfl
@[simp] theorem setReset_busy (b : Bool) : (setReset s b).busy = s.busy := rfl
@[simp] theorem setReset_snapCommand (b : Bool) :
    snapCommand (setReset s b) = snapCommand s := rfl
@[simp] theorem goTo_busy (n : Nat) : (goTo s n).busy = s.busy := rfl
@[simp] theorem goTo_snapCommand (n : Nat) :
    snapCommand (goTo s n) = snapCommand s := rfl
@[simp] theorem setTemp_busy (t : Nat) (v : Word) : (setTemp s t v).busy = s.busy := rfl
@[simp] theorem setTemp_snapCommand (t : Nat) (v : Word) :
    snapCommand (setTemp s t v) = snapCommand s := rfl
@[simp] theorem pmDouble_busy : (pmDouble s).busy = s.busy := by simp [State.busy]
@[simp] theorem pmDouble_snapCommand : snapCommand (pmDouble s) = snapCommand s := by simp [snapCommand]
@[simp] theorem hostSetWide_busy (v : Wide) (r : WideReg) : (hostSetWide s v r).busy = s.busy := by cases r <;> rfl
@[simp] theorem hostSetWide_snapCommand (v : Wide) (r : WideReg) :
    snapCommand (hostSetWide s v r) = snapCommand s := by cases r <;> rfl

end Sys2Proof.Laws
end

