-- ==== Sys2Proof/Laws/Words.lean ====
section
/-! SUPPORT. Laws/Words.lean: the words of a 256-bit register (20_memory.md R53), numbers written to registers, and the
host's temporaries. -/

namespace Sys2Proof.Laws

open Sys2Proof.Machine Sys2Proof.Config

theorem getLsbD_getWord (x : Wide) (i : Fin 8) (j : Nat) :
    (getWord x i).getLsbD j = (decide (j < 32) && x.getLsbD (32 * i.val + j)) := by
  simp [getWord]

/-- The bits of a register after word `i` is written: those of the word inside it, the old ones outside. -/
theorem getLsbD_setWord (x : Wide) (i : Fin 8) (v : Word) (j : Nat) (hj : j < 256) :
    (setWord x i v).getLsbD j =
      if 32 * i.val ≤ j ∧ j < 32 * i.val + 32 then v.getLsbD (j - 32 * i.val) else x.getLsbD j := by
  have hi := i.isLt
  simp only [setWord, BitVec.getLsbD_or, BitVec.getLsbD_and, BitVec.getLsbD_not, BitVec.getLsbD_shiftLeft,
    BitVec.getLsbD_setWidth, BitVec.getLsbD_allOnes, hj]
  by_cases h1 : j < 32 * i.val
  · rw [if_neg (by omega)]; simp [h1]
  · by_cases h2 : j < 32 * i.val + 32
    · rw [if_pos (by omega)]
      have h3 : j - 32 * i.val < 32 := by omega
      have h4 : j - 32 * i.val < 256 := by omega
      simp [h1, h3, h4]
    · rw [if_neg (by omega)]
      have h3 : ¬ j - 32 * i.val < 32 := by omega
      have h4 : v.getLsbD (j - 32 * i.val) = false := BitVec.getLsbD_of_ge _ _ (by omega)
      simp [h3, h4]

theorem getWord_setWord_same (x : Wide) (i : Fin 8) (v : Word) : getWord (setWord x i v) i = v := by
  have hi := i.isLt
  refine BitVec.eq_of_getLsbD_eq fun j hj => ?_
  rw [getLsbD_getWord, getLsbD_setWord _ _ _ _ (by omega), if_pos (by omega)]
  simp [hj]

theorem getWord_setWord_other (x : Wide) (i j : Fin 8) (v : Word) (h : i ≠ j) :
    getWord (setWord x i v) j = getWord x j := by
  have hi := i.isLt
  have hj := j.isLt
  have hne : i.val ≠ j.val := fun hc => h (Fin.ext hc)
  refine BitVec.eq_of_getLsbD_eq fun b hb => ?_
  rw [getLsbD_getWord, getLsbD_getWord, getLsbD_setWord _ _ _ _ (by omega), if_neg (by omega)]

/-- Two registers with equal words are equal. -/
theorem wide_ext {x y : Wide} (h : ∀ i, getWord x i = getWord y i) : x = y := by
  refine BitVec.eq_of_getLsbD_eq fun b hb => ?_
  have hw := congrArg (fun w : Word => w.getLsbD (b % 32)) (h ⟨b / 32, by omega⟩)
  simp only [getLsbD_getWord, Nat.mod_lt b (by decide : 32 > 0), decide_true, Bool.true_and] at hw
  have hb2 : 32 * (b / 32) + b % 32 = b := Nat.div_add_mod b 32
  simpa only [hb2] using hw

theorem toNat_wide {v : Nat} (h : v < 2 ^ 256) : (wide v).toNat = v := by
  simp only [wide, BitVec.toNat_ofNat]; exact Nat.mod_eq_of_lt h

/-- A working register holds the point put into it when its coordinates are in range (10_state.md R38). -/
theorem point_ofPoint {q : Point} (h : q.rangeOk = true) : (PointReg.ofPoint q).point = q := by
  have hP : P < 2 ^ 256 := by decide
  cases q with
  | inf => rfl
  | aff x y =>
    simp only [Point.rangeOk, fieldOk, Bool.and_eq_true, decide_eq_true_eq] at h
    simp only [PointReg.ofPoint, PointReg.point, pointOperand, Bool.false_eq_true, if_false]
    rw [toNat_wide (h.1.trans hP), toNat_wide (h.2.trans hP)]

/-! The temporaries of the host program. -/

theorem tempsWfFrom_mono {lo lo' : Nat} (h : lo' ≤ lo) {ts : List (Nat × Word)}
    (hw : tempsWfFrom lo ts = true) : tempsWfFrom lo' ts = true := by
  cases ts with
  | nil => rfl
  | cons e ts =>
    simp only [tempsWfFrom, Bool.and_eq_true, decide_eq_true_eq] at hw ⊢
    exact ⟨⟨by omega, hw.1.2⟩, hw.2⟩

theorem tempCons_wf {lo t : Nat} {v : Word} {ts : List (Nat × Word)} (hlo : lo ≤ t)
    (h : tempsWfFrom (t + 1) ts = true) : tempsWfFrom lo (tempCons t v ts) = true := by
  unfold tempCons
  split
  · exact tempsWfFrom_mono (by omega) h
  · rename_i hv; simpa [tempsWfFrom, hlo, h] using hv

theorem tempSet_wfFrom {t : Nat} {v : Word} :
    ∀ {ts : List (Nat × Word)} {lo : Nat}, lo ≤ t → tempsWfFrom lo ts = true →
      tempsWfFrom lo (tempSet ts t v) = true := by
  intro ts
  induction ts with
  | nil => intro lo hlo _; exact tempCons_wf hlo rfl
  | cons e ts ih =>
    intro lo hlo h
    obtain ⟨k, w⟩ := e
    have h' := h
    simp only [tempsWfFrom, Bool.and_eq_true, decide_eq_true_eq] at h'
    rw [tempSet]
    split
    · refine tempCons_wf hlo ?_
      simp only [tempsWfFrom, Bool.and_eq_true, decide_eq_true_eq]
      exact ⟨⟨by omega, h'.1.2⟩, h'.2⟩
    · split
      · rename_i _ he; subst he; exact tempCons_wf hlo h'.2
      · simp only [tempsWfFrom, Bool.and_eq_true, decide_eq_true_eq]
        exact ⟨h'.1, ih (by omega) h'.2⟩

/-- Setting a temporary keeps the canonical form. -/
theorem tempSet_wf {ts : List (Nat × Word)} (t : Nat) (v : Word) (h : tempsWf ts = true) :
    tempsWf (tempSet ts t v) = true := tempSet_wfFrom (Nat.zero_le t) h

theorem tempGet_cons_of_ge {lo t : Nat} {ts : List (Nat × Word)} (h : tempsWfFrom lo ts = true) (ht : t < lo) :
    tempGet ts t = 0 := by
  induction ts generalizing lo with
  | nil => rfl
  | cons e ts ih =>
    simp only [tempsWfFrom, Bool.and_eq_true, decide_eq_true_eq] at h
    rw [tempGet, if_neg (by omega)]
    exact ih h.2 (by omega)

/-- Reading a temporary after setting one. -/
theorem tempGet_tempSet {t u : Nat} {v : Word} :
    ∀ {ts : List (Nat × Word)} {lo : Nat}, tempsWfFrom lo ts = true →
      tempGet (tempSet ts t v) u = if u = t then v else tempGet ts u := by
  have hcons : ∀ {ts : List (Nat × Word)}, tempsWfFrom (t + 1) ts = true →
      tempGet (tempCons t v ts) u = if u = t then v else tempGet ts u := by
    intro ts h
    unfold tempCons
    split
    · rename_i hv
      split
      · rename_i hu; rw [hu, hv]; exact tempGet_cons_of_ge h (by omega)
      · rfl
    · rw [tempGet]
      by_cases hu : u = t
      · rw [if_pos hu.symm, if_pos hu]
      · rw [if_neg (Ne.symm hu), if_neg hu]
  intro ts
  induction ts with
  | nil => intro lo _; exact hcons rfl
  | cons e ts ih =>
    intro lo h
    obtain ⟨k, w⟩ := e
    have h' := h
    simp only [tempsWfFrom, Bool.and_eq_true, decide_eq_true_eq] at h'
    rw [tempSet]
    split
    · refine hcons ?_
      simp only [tempsWfFrom, Bool.and_eq_true, decide_eq_true_eq]
      exact ⟨⟨by omega, h'.1.2⟩, h'.2⟩
    · split
      · rename_i _ he
        subst he
        rw [hcons h'.2, tempGet]
        by_cases hu : u = t
        · rw [if_pos hu, if_pos hu]
        · rw [if_neg hu, if_neg hu, if_neg (Ne.symm hu)]
      · rename_i _ hne
        rw [tempGet, tempGet, ih h'.2]
        by_cases hk : k = u
        · rw [if_pos hk, if_pos hk, if_neg (by omega)]
        · rw [if_neg hk, if_neg hk]

end Sys2Proof.Laws
end

