-- ==== Sys2Proof/Laws/Ops.lean ====
section
/-! SUPPORT. Laws/Ops.lean: what each shared operation can do, said once: a host access, a write at an offset, one
statement of the host program, the operand checks and the shapes of the commands, an engine step, a turn. -/

namespace Sys2Proof.Laws

open Sys2Proof.Machine Sys2Proof.Config

/-- A completion with a point result is a successful completion (30_encoding.md R84). -/
theorem completePoint_eq (s : State) (q : Point) :
    completePoint s q = completeOk s (PointReg.ofPoint q).x (PointReg.ofPoint q).y (PointReg.ofPoint q).inf false := by
  cases q <;> rfl

/-- A host write at an offset: nothing, an acceptance while idle, an overrun while busy, a W1C, an enable or flag write,
or a write of one 256-bit register (20_memory.md R52). -/
theorem writeOff_cases (s : State) (off : Nat) (v : Word) :
    writeOff s off v = s ∨ (s.busy = false ∧ writeOff s off v = accept s v) ∨
      (s.busy = true ∧ writeOff s off v = overrun s) ∨ writeOff s off v = writeStatus s v ∨
      writeOff s off v = writeIrqEn s v ∨ writeOff s off v = writePtFlags s v ∨
      ∃ r x, writeOff s off v = hostSetWide s x r := by
  unfold writeOff
  split
  · rename_i r _
    cases r with
    | id => exact .inl rfl
    | errcode => exact .inl rfl
    | cmd =>
      cases hb : s.busy
      · exact .inr (.inl ⟨rfl, by simp [writeReg, hb]⟩)
      · exact .inr (.inr (.inl ⟨rfl, by simp [writeReg, hb]⟩))
    | status => exact .inr (.inr (.inr (.inl rfl)))
    | irqEn => exact .inr (.inr (.inr (.inr (.inl rfl))))
    | ptFlags => exact .inr (.inr (.inr (.inr (.inr (.inl rfl)))))
    | word r i => exact .inr (.inr (.inr (.inr (.inr (.inr ⟨r, _, rfl⟩)))))
  · exact .inl rfl

/-- A transaction in the window is a write, a read, or illegal (20_memory.md R50 to R52). -/
theorem windowAccess_cases (s : State) (t : Transaction) (off : Nat) :
    (windowAccess s t off = pushAnswer (writeOff s off t.wdata) .wrote) ∨
      (windowAccess s t off = pushAnswer s (.read (readOff s off))) ∨ windowAccess s t off = illegalAccess s := by
  unfold windowAccess
  split
  · split
    · exact .inl rfl
    · exact .inr (.inl rfl)
  · exact .inr (.inr rfl)

/-- A host access that is answered: reset is released and the address is in the window (20_memory.md R46;
70_reset_and_hazards.md R154). -/
theorem busAccess_next {t : Transaction} {s s' : State} (h : busAccess t s = .next s') :
    s.inReset = false ∧ (s.baseAddr ≤ t.addr ∧ t.addr < s.baseAddr + windowSize) ∧
      s' = windowAccess s t (t.addr - s.baseAddr) := by
  unfold busAccess at h
  split at h
  · cases h
  · split at h
    · rename_i hr hw
      cases h
      exact ⟨by simpa using hr, hw, rfl⟩
    · cases h

/-- A host access at an offset of the window, outside reset, is answered (20_memory.md R46, R49). -/
theorem busAccess_in_window (s : State) {off : Nat} (size : AccessSize) (w : Bool) (v : Word)
    (hr : s.inReset = false) (ho : off < 4096) :
    busAccess ⟨s.baseAddr + off, size, w, v⟩ s = .next (windowAccess s ⟨s.baseAddr + off, size, w, v⟩ off) := by
  unfold busAccess
  rw [if_neg (by simp [hr]), if_pos ⟨Nat.le_add_right _ _, by simp only [windowSize]; omega⟩, Nat.add_sub_cancel_left]

/-- A legal word write (20_memory.md R52). -/
theorem busAccess_write (s : State) {off : Nat} (v : Word) (hr : s.inReset = false) (ho : off < 4096)
    (ha : off % 4 = 0) :
    busAccess ⟨s.baseAddr + off, .word, true, v⟩ s = .next (pushAnswer (writeOff s off v) .wrote) := by
  rw [busAccess_in_window s _ _ _ hr ho]; simp [windowAccess, legalAccess, ha]

/-- A legal word read (20_memory.md R51). -/
theorem busAccess_read (s : State) {off : Nat} (d : Word) (hr : s.inReset = false) (ho : off < 4096)
    (ha : off % 4 = 0) :
    busAccess ⟨s.baseAddr + off, .word, false, d⟩ s = .next (pushAnswer s (.read (readOff s off))) := by
  rw [busAccess_in_window s _ _ _ hr ho]; simp [windowAccess, legalAccess, ha]

/-- A host access never raises anything but its two faults. -/
theorem busAccess_not_refused (t : Transaction) (s : State) (e : Refusal) : busAccess t s ≠ .refused e := by
  unfold busAccess
  split
  · nofun
  · split <;> nofun

/-- A statement of the host program changes only the host, or makes one answered access and then changes only the host
(30_encoding.md R85). -/
theorem hostStep_next {s s' : State} (h : hostStep s = .next s') :
    (∃ hs, s' = { s with host := hs }) ∨
      ∃ t s₁ hs, busAccess t s = .next s₁ ∧ s' = { s₁ with host := hs } := by
  unfold hostStep at h
  split at h
  · cases h; exact .inl ⟨s.host, rfl⟩
  · rename_i stmt _
    cases stmt with
    | wr r v =>
      simp only [hostStmt] at h
      split at h
      · rename_i s₁ hb; cases h; exact .inr ⟨_, s₁, _, hb, rfl⟩
      · cases h
      · cases h
    | rd r t =>
      simp only [hostStmt] at h
      split at h
      · rename_i s₁ hb; cases h; exact .inr ⟨_, s₁, _, hb, rfl⟩
      · cases h
      · cases h
    | bnz t m g => cases h; exact .inl ⟨_, rfl⟩
    | bz t m g => cases h; exact .inl ⟨_, rfl⟩
    | b g => cases h; exact .inl ⟨_, rfl⟩
    | halt => cases h; exact .inl ⟨s.host, rfl⟩

/-- A host access does not touch the host program. -/
theorem busAccess_host {t : Transaction} {s s' : State} (h : busAccess t s = .next s') : s'.host = s.host := by
  obtain ⟨_, _, rfl⟩ := busAccess_next h
  rcases windowAccess_cases s t (t.addr - s.baseAddr) with h | h | h <;> rw [h]
  · rcases writeOff_cases s (t.addr - s.baseAddr) t.wdata with h | ⟨_, h⟩ | ⟨_, h⟩ | h | h | h | ⟨r, x, h⟩ <;> simp [h]
  · rfl
  · rfl

/-- A statement of the host program leaves the temporaries, or sets one of them (30_encoding.md R85). -/
theorem hostStep_temps {s s' : State} (h : hostStep s = .next s') :
    s'.host.temps = s.host.temps ∨ ∃ t v, s'.host.temps = tempSet s.host.temps t v := by
  unfold hostStep at h
  split at h
  · cases h; exact .inl rfl
  · rename_i stmt _
    cases stmt with
    | wr r v =>
      simp only [hostStmt] at h
      split at h
      · rename_i s₁ hb; cases h; exact .inl (by rw [← busAccess_host hb]; rfl)
      · cases h
      · cases h
    | rd r t =>
      simp only [hostStmt] at h
      split at h
      · rename_i s₁ hb; cases h
        exact .inr ⟨t, newestData s₁, by rw [← busAccess_host hb]; rfl⟩
      · cases h
      · cases h
    | bnz t m g => cases h; exact .inl rfl
    | bz t m g => cases h; exact .inl rfl
    | b g => cases h; exact .inl rfl
    | halt => cases h; exact .inl rfl

/-- The point check raises E_RANGE or E_NOT_ON_CURVE and nothing else (41_curve_points.md R103). -/
theorem checkPoints_some {qs : List Point} {c : ErrCode} (h : checkPoints qs = some c) :
    c = .range ∨ c = .notOnCurve := by
  unfold checkPoints at h
  split at h
  · split at h
    · cases h
    · cases h; exact .inr rfl
  · cases h; exact .inl rfl

/-- The point check passes exactly when every point is in range and on the curve (41_curve_points.md R103). -/
theorem checkPoints_none_iff (qs : List Point) : checkPoints qs = none ↔ ∀ q ∈ qs, q.valid = true := by
  unfold checkPoints
  simp only [Point.valid, Bool.and_eq_true, forall_and]
  split
  · rename_i hr
    split
    · rename_i hc; exact ⟨fun _ => ⟨by simpa using hr, by simpa using hc⟩, fun _ => rfl⟩
    · rename_i hc
      exact ⟨fun h => absurd h (by simp), fun h => absurd (List.all_eq_true.2 h.2) hc⟩
  · rename_i hr
    exact ⟨fun h => absurd h (by simp), fun h => absurd (List.all_eq_true.2 h.1) hr⟩

/-- A command that checks its points raises the check's error or runs (41_curve_points.md R103). -/
theorem withPoints_cases (s : State) (qs : List Point) (run : State → State) :
    (checkPoints qs = none ∧ withPoints s qs run = .next (run s)) ∨
      ∃ c, checkPoints qs = some c ∧ withPoints s qs run = .next (raiseError s c) := by
  unfold withPoints
  cases h : checkPoints qs with
  | none => exact .inl ⟨rfl, rfl⟩
  | some c => exact .inr ⟨c, rfl, rfl⟩

/-- FADD, FSUB and FMUL succeed with operands in range, else raise E_RANGE (40_field_arith.md R89). -/
theorem fieldBinary_cases (f : Nat → Nat → Nat → Nat) (m : Nat) (s : State) :
    (s.snap.a.toNat < m ∧ s.snap.b.toNat < m ∧
        fieldBinary f m s = .next (completeField s (f s.snap.a.toNat s.snap.b.toNat m))) ∨
      ((m ≤ s.snap.a.toNat ∨ m ≤ s.snap.b.toNat) ∧ fieldBinary f m s = .next (raiseError s .range)) := by
  unfold fieldBinary fieldOk
  by_cases ha : s.snap.a.toNat < m <;> by_cases hb : s.snap.b.toNat < m
  · exact .inl ⟨ha, hb, by simp [ha, hb]⟩
  · exact .inr ⟨.inr (by omega), by simp [hb]⟩
  · exact .inr ⟨.inl (by omega), by simp [ha]⟩
  · exact .inr ⟨.inl (by omega), by simp [ha]⟩

/-- FINV succeeds, or raises E_NO_INVERSE or E_RANGE (40_field_arith.md R94). -/
theorem fieldInverse_cases (m : Nat) (s : State) :
    (s.snap.a.toNat < m ∧ Nat.gcd s.snap.a.toNat m = 1 ∧
        fieldInverse m s = .next (completeField s (fInv s.snap.a.toNat m))) ∨
      (s.snap.a.toNat < m ∧ Nat.gcd s.snap.a.toNat m ≠ 1 ∧ fieldInverse m s = .next (raiseError s .noInverse)) ∨
      (m ≤ s.snap.a.toNat ∧ fieldInverse m s = .next (raiseError s .range)) := by
  unfold fieldInverse fieldOk
  by_cases ha : s.snap.a.toNat < m
  · by_cases hg : Nat.gcd s.snap.a.toNat m = 1
    · exact .inl ⟨ha, hg, by simp [ha, hg]⟩
    · exact .inr (.inl ⟨ha, hg, by simp [ha, hg]⟩)
  · exact .inr (.inr ⟨by omega, by simp [ha]⟩)

/-- The first step of a scalar command: E_SCALAR, a point error, or PM_INIT (42_scalar_mult.md R117, R124). -/
theorem pmStart_cases (s : State) (base : Point) (qs : List Point) :
    (scalarOk s.snap.k = false ∧ pmStart s base qs = .next (raiseError s .scalar)) ∨
      (scalarOk s.snap.k = true ∧ checkPoints qs = none ∧ pmStart s base qs = .next (pmInit s base)) ∨
      ∃ c, scalarOk s.snap.k = true ∧ checkPoints qs = some c ∧ pmStart s base qs = .next (raiseError s c) := by
  unfold pmStart
  cases hk : scalarOk s.snap.k
  · exact .inl ⟨rfl, rfl⟩
  · obtain ⟨hc, h⟩ | ⟨c, hc, h⟩ := withPoints_cases s qs fun s => pmInit s base
    · exact .inr (.inl ⟨rfl, hc, h⟩)
    · exact .inr (.inr ⟨c, rfl, hc, h⟩)

/-- A later step of a scalar command: finish, doubling or addition (42_scalar_mult.md R120 to R122). -/
theorem pmStep_cases (s : State) :
    (s.pm.idx = idxOver ∧ pmStep s = pmFinish s) ∨
      (s.pm.idx ≠ idxOver ∧ s.pm.phase = .dbl ∧ pmStep s = pmDouble s) ∨
      (s.pm.idx ≠ idxOver ∧ s.pm.phase = .add ∧ pmStep s = pmAdd s) := by
  unfold pmStep
  split
  · rename_i h; exact .inl ⟨h, rfl⟩
  · rename_i h
    cases hp : s.pm.phase
    · exact .inr (.inl ⟨h, rfl, rfl⟩)
    · exact .inr (.inr ⟨h, rfl, rfl⟩)

/-- An engine step that moves: reset is released, a command is in progress, and it is the command's step or the error
completion of an illegal word (30_encoding.md R74, R78). -/
theorem engineStep_cases {s s' : State} (h : engineStep s = .next s') :
    ((s.inReset = true ∨ s.busy = false) ∧ s' = s) ∨
      (s.inReset = false ∧ s.busy = true ∧
        ((∃ i, snapCommand s = .command i ∧ exec i s = .next s') ∨
          ∃ why, snapCommand s = .illegal why ∧ s' = raiseError s .illegalCmd)) := by
  unfold engineStep at h
  split at h
  · rename_i hc
    cases h
    exact .inl ⟨by simpa using hc, rfl⟩
  · rename_i hc
    refine .inr ⟨?_, ?_, ?_⟩
    · cases hr : s.inReset <;> simp_all
    · cases hb : s.busy <;> simp_all
    · split at h
      · rename_i i hi; exact .inl ⟨i, hi, h⟩
      · rename_i why hi; cases h; exact .inr ⟨why, hi, rfl⟩

/-- One step of the machine is one turn: an engine step, a host statement, an access, a reset edge, or nothing
(20_memory.md R58). `rest` is the schedule that is left. -/
theorem step_cases {s s' : State} (h : step s = .next s') :
    ∃ rest, s' = setTurns s rest ∨
      engineStep (setTurns s rest) = .next s' ∨
      hostStep (setTurns s rest) = .next s' ∨
      (∃ t, busAccess t (setTurns s rest) = .next s') ∨
      s' = setReset (resetBlock (setTurns s rest)) true ∨
      s' = setReset (setTurns s rest) false := by
  unfold step machineStep at h
  split at h
  · rename_i ht
    have hs : s = setTurns s [] := by rw [setTurns, ← ht]
    refine ⟨[], ?_⟩
    unfold defaultStep at h
    split at h
    · cases h; exact .inl hs
    · split at h
      · exact .inr (.inl (hs ▸ h))
      · exact .inr (.inr (.inl (hs ▸ h)))
  · rename_i t rest ht
    refine ⟨rest, ?_⟩
    cases t with
    | engine => exact .inr (.inl h)
    | host => exact .inr (.inr (.inl h))
    | bus t => exact .inr (.inr (.inr (.inl ⟨t, h⟩)))
    | resetAssert => cases h; exact .inr (.inr (.inr (.inr (.inl rfl))))
    | resetRelease => cases h; exact .inr (.inr (.inr (.inr (.inr rfl))))

end Sys2Proof.Laws
end

