-- ==== Sys2Proof/Laws/PerInstr.lean ====
section
/-! SUPPORT. Laws/PerInstr.lean: statements made of every instruction, one lemma for each constructor. -/

/-- Each command is well formed, its fields are those of a legal word, and its word and the byte lanes of its word decode
to it (30_encoding.md R78, R81, R87; 20_memory.md R53). -/
def Sys2Proof.Laws.EncodeRoundTrip.Statement (i : Sys2Proof.Instr) : Prop :=
  i.wf = true ∧ (Sys2Proof.encodeFields i).wf = true ∧
    Sys2Proof.decodeWord (Sys2Proof.encode i) = .command i ∧
    Sys2Proof.decodeBytes (Sys2Proof.bytesOfWord (Sys2Proof.encode i)) = (.command i, [])

theorem Sys2Proof.Laws.EncodeRoundTrip.faddP : Sys2Proof.Laws.EncodeRoundTrip.Statement .faddP := by
  unfold Sys2Proof.Laws.EncodeRoundTrip.Statement; decide

theorem Sys2Proof.Laws.EncodeRoundTrip.fsubP : Sys2Proof.Laws.EncodeRoundTrip.Statement .fsubP := by
  unfold Sys2Proof.Laws.EncodeRoundTrip.Statement; decide

theorem Sys2Proof.Laws.EncodeRoundTrip.fmulP : Sys2Proof.Laws.EncodeRoundTrip.Statement .fmulP := by
  unfold Sys2Proof.Laws.EncodeRoundTrip.Statement; decide

theorem Sys2Proof.Laws.EncodeRoundTrip.fredP : Sys2Proof.Laws.EncodeRoundTrip.Statement .fredP := by
  unfold Sys2Proof.Laws.EncodeRoundTrip.Statement; decide

theorem Sys2Proof.Laws.EncodeRoundTrip.finvP : Sys2Proof.Laws.EncodeRoundTrip.Statement .finvP := by
  unfold Sys2Proof.Laws.EncodeRoundTrip.Statement; decide

theorem Sys2Proof.Laws.EncodeRoundTrip.faddN : Sys2Proof.Laws.EncodeRoundTrip.Statement .faddN := by
  unfold Sys2Proof.Laws.EncodeRoundTrip.Statement; decide

theorem Sys2Proof.Laws.EncodeRoundTrip.fsubN : Sys2Proof.Laws.EncodeRoundTrip.Statement .fsubN := by
  unfold Sys2Proof.Laws.EncodeRoundTrip.Statement; decide

theorem Sys2Proof.Laws.EncodeRoundTrip.fmulN : Sys2Proof.Laws.EncodeRoundTrip.Statement .fmulN := by
  unfold Sys2Proof.Laws.EncodeRoundTrip.Statement; decide

theorem Sys2Proof.Laws.EncodeRoundTrip.fredN : Sys2Proof.Laws.EncodeRoundTrip.Statement .fredN := by
  unfold Sys2Proof.Laws.EncodeRoundTrip.Statement; decide

theorem Sys2Proof.Laws.EncodeRoundTrip.finvN : Sys2Proof.Laws.EncodeRoundTrip.Statement .finvN := by
  unfold Sys2Proof.Laws.EncodeRoundTrip.Statement; decide

theorem Sys2Proof.Laws.EncodeRoundTrip.pchk : Sys2Proof.Laws.EncodeRoundTrip.Statement .pchk := by
  unfold Sys2Proof.Laws.EncodeRoundTrip.Statement; decide

theorem Sys2Proof.Laws.EncodeRoundTrip.pdbl : Sys2Proof.Laws.EncodeRoundTrip.Statement .pdbl := by
  unfold Sys2Proof.Laws.EncodeRoundTrip.Statement; decide

theorem Sys2Proof.Laws.EncodeRoundTrip.padd : Sys2Proof.Laws.EncodeRoundTrip.Statement .padd := by
  unfold Sys2Proof.Laws.EncodeRoundTrip.Statement; decide

theorem Sys2Proof.Laws.EncodeRoundTrip.pmul : Sys2Proof.Laws.EncodeRoundTrip.Statement .pmul := by
  unfold Sys2Proof.Laws.EncodeRoundTrip.Statement; decide

theorem Sys2Proof.Laws.EncodeRoundTrip.pmulg : Sys2Proof.Laws.EncodeRoundTrip.Statement .pmulg := by
  unfold Sys2Proof.Laws.EncodeRoundTrip.Statement; decide
end

