-- ==== Sys2Proof/Laws/Primes.lean ====
section
/-! SUPPORT. Laws/Primes.lean: P and N are prime (00_scope.md R4, R5), by Pocklington certificates checked in the
kernel. The certificates' factorisations are the model's own computation. -/

namespace Sys2Proof.Laws

open Sys2Proof.Config

/-- `a ^ e % n` by squaring, by fuel (the number of bits of `e`). -/
def powMod (n : Nat) : Nat → Nat → Nat → Nat
  | 0, _, _ => 1 % n
  | fuel + 1, a, e =>
    if e % 2 = 1 then a * powMod n fuel (a * a % n) (e / 2) % n else powMod n fuel (a * a % n) (e / 2)

theorem powMod_eq (n : Nat) : ∀ (fuel a e : Nat), e < 2 ^ fuel → powMod n fuel a e = a ^ e % n := by
  intro fuel
  induction fuel with
  | zero => intro a e h; simp at h; simp [powMod, h]
  | succ fuel ih =>
    intro a e h
    have hd : e / 2 < 2 ^ fuel := by rw [pow_succ] at h; omega
    have he : a ^ e = a ^ (e % 2) * (a * a) ^ (e / 2) := by
      rw [← pow_two, ← pow_mul, ← pow_add]; congr 1; omega
    rw [powMod, ih _ _ hd, ← Nat.pow_mod, he]
    split
    · rename_i h1; rw [h1, pow_one, Nat.mul_mod, Nat.mod_mod, ← Nat.mul_mod]
    · rename_i h1; rw [show e % 2 = 0 by omega]; simp

/-- The certificate for one prime factor `q` of `n - 1`: `a ^ (n-1)` is 1 modulo `n` and `a ^ ((n-1)/q) - 1` is
invertible modulo `n`. -/
def certifies (n a q : Nat) : Bool :=
  powMod n 256 a (n - 1) == 1 && Nat.gcd (powMod n 256 a ((n - 1) / q) + (n - 1)) n == 1
    && (n - 1) / q * q == n - 1

/-- A certified prime factor of `n - 1` divides `r - 1` for every prime `r` that divides `n`. -/
theorem dvd_pred_of_certifies {n a q r : Nat} (hn : n < 2 ^ 256) (h1 : 1 < n) (hq : q.Prime) (hr : r.Prime)
    (hrn : r ∣ n) (h : certifies n a q = true) : q ∣ r - 1 := by
  simp only [certifies, Bool.and_eq_true, beq_iff_eq] at h
  obtain ⟨⟨hone, hgcd⟩, hdiv⟩ := h
  rw [powMod_eq _ _ _ _ (by omega)] at hone
  rw [powMod_eq _ _ _ _ (lt_of_le_of_lt (Nat.div_le_self _ _) (by omega))] at hgcd
  have := Fact.mk hr
  have hcast : ∀ v : Nat, ((v % n : Nat) : ZMod r) = (v : ZMod r) := fun v =>
    (ZMod.natCast_eq_natCast_iff' _ _ _).2 (Nat.mod_mod_of_dvd v hrn)
  have hx : ((a : ZMod r)) ^ (n - 1) = 1 := by
    have := hcast (a ^ (n - 1)); rw [hone] at this; push_cast at this; exact this.symm
  have hne : ((a : ZMod r)) ^ ((n - 1) / q) ≠ 1 := by
    intro hc
    have hz : ((a ^ ((n - 1) / q) % n + (n - 1) : Nat) : ZMod r) = 0 := by
      have hn0 : ((n : Nat) : ZMod r) = 0 := (ZMod.natCast_eq_zero_iff _ _).2 hrn
      rw [Nat.cast_add, hcast, Nat.cast_pow, hc, Nat.cast_sub h1.le, hn0]; simp
    have hd := (ZMod.natCast_eq_zero_iff _ _).1 hz
    exact hr.one_lt.ne' (Nat.eq_one_of_dvd_one (hgcd ▸ Nat.dvd_gcd hd hrn))
  have hx0 : (a : ZMod r) ≠ 0 := by
    intro h0; rw [h0, zero_pow (by omega)] at hx; exact zero_ne_one hx
  have ho : orderOf (a : ZMod r) ∣ r - 1 := orderOf_dvd_of_pow_eq_one (ZMod.pow_card_sub_one_eq_one hx0)
  by_contra hnd
  have hco : Nat.Coprime (orderOf (a : ZMod r)) q :=
    ((Nat.Prime.coprime_iff_not_dvd hq).2 fun hc => hnd (hc.trans ho)).symm
  have : orderOf (a : ZMod r) ∣ (n - 1) / q * q := by rw [hdiv]; exact orderOf_dvd_of_pow_eq_one hx
  exact hne (orderOf_dvd_iff_pow_eq_one.1 (hco.dvd_of_dvd_mul_right this))

/-- Pocklington: `n` is prime when every prime that divides it is above its square root. -/
theorem prime_of_pred_dvd {n F : Nat} (h1 : 1 < n) (hF : n < F * F)
    (h : ∀ r : Nat, r.Prime → r ∣ n → F ∣ r - 1) : n.Prime := by
  by_contra hc
  have hm := Nat.minFac_prime h1.ne'
  have hle := Nat.le_of_dvd (Nat.sub_pos_of_lt hm.one_lt) (h _ hm (Nat.minFac_dvd n))
  have hsq := Nat.minFac_sq_le_self (Nat.zero_lt_of_lt h1) hc
  rw [pow_two] at hsq
  have : F * F ≤ n.minFac * n.minFac := Nat.mul_le_mul (by omega) (by omega)
  omega

/-- A certificate with base 2 for a list of distinct primes whose product is `F`. -/
theorem prime_of_certificate {n : Nat} (qs : List Nat) (h1 : 1 < n) (hn : n < 2 ^ 256) (hF : n < qs.prod * qs.prod)
    (hq : ∀ q ∈ qs, q.Prime) (hd : qs.Nodup) (hc : qs.all (certifies n 2) = true) : n.Prime := by
  refine prime_of_pred_dvd h1 hF fun r hr hrn => ?_
  have hall : ∀ q ∈ qs, q ∣ r - 1 := fun q hm =>
    dvd_pred_of_certifies hn h1 (hq q hm) hr hrn (List.all_eq_true.1 hc q hm)
  clear hF hc
  induction qs with
  | nil => simp
  | cons q qs ih =>
    rw [List.prod_cons]
    refine Nat.Coprime.mul_dvd_of_dvd_of_dvd ?_ (hall q (by simp)) ?_
    · refine Nat.coprime_list_prod_right_iff.2 fun p hp => ?_
      refine (Nat.coprime_primes (hq q (by simp)) (hq p (by simp [hp]))).2 ?_
      rintro rfl
      exact (List.nodup_cons.1 hd).1 hp
    · exact ih (fun p hp => hq p (by simp [hp])) (List.nodup_cons.1 hd).2 fun p hp => hall p (by simp [hp])

theorem prime_57_bits : Nat.Prime 107361793816595537 :=
  prime_of_certificate [85831, 4681609] (by norm_num) (by norm_num) (by norm_num) (by norm_num) (by decide)
    (by decide +kernel)

theorem prime_68_bits : Nat.Prime 174723607534414371449 :=
  prime_of_certificate [120233, 44706919] (by norm_num) (by norm_num) (by norm_num) (by norm_num) (by decide)
    (by decide +kernel)

theorem prime_128_bits : Nat.Prime 255515944373312847190720520512484175977 :=
  prime_of_certificate [107590001, 7240687, 96557] (by norm_num) (by norm_num) (by norm_num) (by norm_num)
    (by decide) (by decide +kernel)

theorem prime_237_bits :
    Nat.Prime 205115282021455665897114700593932402728804164701536103180137503955397371 :=
  prime_of_certificate [255515944373312847190720520512484175977] (by norm_num) (by norm_num) (by norm_num)
    (by simpa using prime_128_bits) (by decide) (by decide +kernel)

/-- The field prime is prime (00_scope.md R4). -/
theorem P_prime : Nat.Prime P :=
  prime_of_certificate [205115282021455665897114700593932402728804164701536103180137503955397371]
    (by norm_num [P]) (by norm_num [P]) (by norm_num [P]) (by simpa using prime_237_bits) (by decide)
    (by decide +kernel)

/-- The group order is prime (00_scope.md R5). -/
theorem N_prime : Nat.Prime N :=
  prime_of_certificate [107361793816595537, 174723607534414371449, 631]
    (by norm_num [N]) (by norm_num [N]) (by norm_num [N])
    (by simpa using ⟨prime_57_bits, prime_68_bits, by norm_num⟩) (by decide) (by decide +kernel)

end Sys2Proof.Laws
end

