-- ==== Sys2Proof/Laws/Steps.lean ====
section
/-! SUPPORT. Laws/Steps.lean: everything one step of the machine can do, said once for the invariants: what a host access
can do to the block, and what a step can do. -/

namespace Sys2Proof.Laws

open Sys2Proof.Machine

/-- What a host access can do to the block (20_memory.md R52). -/
inductive HostEffect (s : State) : State → Prop
  | none : HostEffect s s
  | accept (w : Word) : s.busy = false → HostEffect s (accept s w)
  | overrun : s.busy = true → HostEffect s (overrun s)
  | status (v : Word) : HostEffect s (writeStatus s v)
  | irqEn (v : Word) : HostEffect s (writeIrqEn s v)
  | ptFlags (v : Word) : HostEffect s (writePtFlags s v)
  | wide (r : WideReg) (x : Wide) : HostEffect s (hostSetWide s x r)

/-- An answered access: its effect on the block, an answer more, and perhaps a host fault more. -/
theorem busAccess_effect {t : Transaction} {s s' : State} (h : busAccess t s = .next s') :
    s.inReset = false ∧ ∃ u, HostEffect s u ∧
      ∃ ans hf, s' = { u with answers := ans, hostFault := hf } ∧ (s.hostFault = true → hf = true) := by
  obtain ⟨hr, _, rfl⟩ := busAccess_next h
  refine ⟨hr, ?_⟩
  rcases windowAccess_cases s t (t.addr - s.baseAddr) with h | h | h <;> rw [h]
  · rcases writeOff_cases s (t.addr - s.baseAddr) t.wdata with h | ⟨hb, h⟩ | ⟨hb, h⟩ | h | h | h | ⟨r, x, h⟩ <;> rw [h]
    · exact ⟨_, .none, _, _, rfl, id⟩
    · exact ⟨_, .accept _ hb, _, _, rfl, id⟩
    · exact ⟨_, .overrun hb, _, _, rfl, id⟩
    · exact ⟨_, .status _, _, _, rfl, id⟩
    · exact ⟨_, .irqEn _, _, _, rfl, id⟩
    · exact ⟨_, .ptFlags _, _, _, rfl, id⟩
    · exact ⟨_, .wide r x, _, _, rfl, by simp⟩
  · exact ⟨_, .none, _, _, rfl, id⟩
  · exact ⟨_, .none, _, _, rfl, fun _ => rfl⟩

/-- The effects of an access do not depend on the schedule. -/
theorem HostEffect.of_setTurns {s u : State} {ts : List Turn} (h : HostEffect (setTurns s ts) u) :
    ∃ u', HostEffect s u' ∧ u = setTurns u' ts := by
  cases h with
  | none => exact ⟨_, .none, rfl⟩
  | accept w h => exact ⟨_, .accept w h, rfl⟩
  | overrun h => exact ⟨_, .overrun h, rfl⟩
  | status v => exact ⟨_, .status v, rfl⟩
  | irqEn v => exact ⟨_, .irqEn v, rfl⟩
  | ptFlags v => exact ⟨_, .ptFlags v, rfl⟩
  | wide r x => exact ⟨_, .wide r x, by cases r <;> rfl⟩

/-- What one step of the machine can do, `ts` being the schedule that is left (20_memory.md R58): an effect of the host
on the block (none where nothing moved), the step of a command, the error completion of an illegal word, an edge of the
reset input. -/
inductive StepEffect (s : State) : State → Prop
  | host (u : State) (ans : List Answer) (hf : Bool) (ts : List Turn) (hs : HostState) :
      HostEffect s u → (s.hostFault = true → hf = true) → (s.inReset = true → u = s) →
      StepEffect s { u with answers := ans, hostFault := hf, turns := ts, host := hs }
  | command (ts : List Turn) (i : Instr) (t : State) :
      s.inReset = false → s.busy = true → snapCommand s = .command i → exec i (setTurns s ts) = .next t →
      StepEffect s t
  | illegal (ts : List Turn) : s.inReset = false → s.busy = true →
      StepEffect s (raiseError (setTurns s ts) .illegalCmd)
  | resetAssert (ts : List Turn) : StepEffect s (setReset (resetBlock (setTurns s ts)) true)
  | resetRelease (ts : List Turn) : StepEffect s (setReset (setTurns s ts) false)

/-- Every step that answers a next state is one of these. -/
theorem step_effect {s t : State} (h : step s = .next t) : StepEffect s t := by
  obtain ⟨ts, h | h | h | ⟨a, h⟩ | h | h⟩ := step_cases h
  · rw [h]; exact .host s s.answers s.hostFault ts s.host .none id (fun _ => rfl)
  · rcases engineStep_cases h with ⟨_, h⟩ | ⟨hr, hb, ⟨i, hi, h⟩ | ⟨w, hi, h⟩⟩
    · rw [h]; exact .host s s.answers s.hostFault ts s.host .none id (fun _ => rfl)
    · exact .command ts i t hr hb hi h
    · rw [h]; exact .illegal ts hr hb
  · rcases hostStep_next h with ⟨hs, rfl⟩ | ⟨a, s₁, hs, hb, rfl⟩
    · exact .host s s.answers s.hostFault ts hs .none id (fun _ => rfl)
    · obtain ⟨hr, u, hu, ans, hf, rfl, hh⟩ := busAccess_effect hb
      obtain ⟨u', hu', rfl⟩ := hu.of_setTurns
      exact .host u' ans hf ts hs hu' hh (fun h => by simp [h] at hr)
  · obtain ⟨hr, u, hu, ans, hf, rfl, hh⟩ := busAccess_effect h
    obtain ⟨u', hu', rfl⟩ := hu.of_setTurns
    exact .host u' ans hf ts u'.host hu' hh (fun h => by simp [h] at hr)
  · rw [h]; exact .resetAssert ts
  · rw [h]; exact .resetRelease ts

end Sys2Proof.Laws
end

