-- ==== Sys2Proof/Tests/Slice0.lean ====
section
/-! SUPPORT. Tests/Slice0.lean: the model's own tests. Their expected results are the vectors T01 to T149 of
95_test_vectors.md, and the encodings of 30_encoding.md R73 to R81. After them, the witnesses: for each statement of
Certificates/Slice0/Obligations.lean that has hypotheses, a state and operands that meet them. -/

namespace Sys2Proof.Tests

open Sys2Proof.Machine Sys2Proof.Config

/-! ## The states of the tests -/

/-- A snapshot of command `i` with the given operands. -/
def snapOf (i : Instr) (a b c d k : Nat) (inf1 inf2 : Bool) : Snapshot :=
  { op := opOf i, mod := modOf i, rsvd := 0, a := wide a, b := wide b, c := wide c, d := wide d, k := wide k,
    inf1 := inf1, inf2 := inf2 }

/-- The state right after the acceptance of command `i`, otherwise as after reset. -/
def accepted (i : Instr) (a b c d k : Nat) (inf1 inf2 : Bool) : State :=
  { State.reset with cmd := encode i, eng := engFor (opOf i), snap := snapOf i a b c d k inf1 inf2 }

/-- A field command with operands `a` and `b` accepted. -/
def field (i : Instr) (a b : Nat) : State := accepted i a b 0 0 0 false false

/-- A point command with affine operands accepted. -/
def point (i : Instr) (a b c d : Nat) : State := accepted i a b c d 0 false false

/-- A scalar command with scalar `k` and operand `(a, b)` accepted. -/
def scalar (i : Instr) (k a b : Nat) : State := accepted i a b 0 0 k false false

/-- A scalar command with scalar `k` in the middle of its run. -/
def scanning (i : Instr) (k : Nat) (acc base : Point) (idx : Nat) (phase : Phase) : State :=
  { scalar i k 0 0 with
    pm := { acc := PointReg.ofPoint acc, base := PointReg.ofPoint base, idx := BitVec.ofNat 9 idx, phase := phase,
            started := true } }

/-- The step answers a completion with these results and no error. -/
def succeeds (o : Result) (x y : Nat) (inf onc : Bool) : Bool :=
  match o with
  | .next t => t.resX == wide x && t.resY == wide y && t.rinf == inf && t.oncurve == onc && t.done && !t.err && !t.busy
  | _ => false

/-- The step answers an error completion with this code. -/
def failsWith (o : Result) (c : ErrCode) : Bool :=
  match o with
  | .next t => decide (t.errcode = c) && t.err && t.done && !t.busy && t.resX == 0 && t.resY == 0
  | _ => false

/-- The step answers a next state with these working registers. -/
def leadsTo (o : Result) (acc : Point) (idx : Nat) (phase : Phase) : Bool :=
  match o with
  | .next t => decide (t.pm.acc = PointReg.ofPoint acc) && t.pm.idx == BitVec.ofNat 9 idx && decide (t.pm.phase = phase)
      && t.pm.started && t.busy
  | _ => false

/-- The outcome is the next state `t`. -/
def isNext (o : Result) (t : State) : Bool :=
  match o with
  | .next u => decide (u = t)
  | _ => false

theorem isNext_eq {o : Result} {t : State} (h : isNext o t = true) : o = .next t := by
  cases o with
  | next u => rw [of_decide_eq_true h]
  | fault e => cases h
  | refused e => cases h

/-- What the newest answer of the outcome is. -/
def answered (o : Result) (a : Answer) : Bool :=
  match o with
  | .next t => decide (t.answers.head? = some a)
  | _ => false

/-- The outcome is a next state of which `p` holds. -/
def nextHas (o : Result) (p : State → Bool) : Bool :=
  match o with
  | .next t => p t
  | _ => false

/-! ## WellFormed: one ill-formed command word for each check (30_encoding.md R78) -/

theorem test_wf_op_zero : (CmdFields.mk 0x0 0 0).wf = false ∧ (CmdFields.mk 0x0 0 0).opNotZero = false := by decide
theorem test_wf_op_reserved : (CmdFields.mk 0xB 0 0).wf = false ∧ (CmdFields.mk 0xB 0 0).opNotReserved = false := by
  decide
theorem test_wf_rsvd : (CmdFields.mk 0x3 0 1).wf = false ∧ (CmdFields.mk 0x3 0 1).rsvdZero = false := by decide
theorem test_wf_mod : (CmdFields.mk 0x6 1 0).wf = false ∧ (CmdFields.mk 0x6 1 0).modAllowed = false := by decide
theorem test_wf_legal : (CmdFields.mk 0x5 1 0).wf = true ∧ (CmdFields.mk 0xA 0 0).wf = true := by decide

/-! ## Decoding: every command's word, written out as RSVD (27 bits), MOD, OP from the table of 30_encoding.md R76 -/

theorem test_decode_faddP : decodeWord 0b000000000000000000000000000_0_0001 = .command .faddP := by decide
theorem test_decode_fsubP : decodeWord 0b000000000000000000000000000_0_0010 = .command .fsubP := by decide
theorem test_decode_fmulP : decodeWord 0b000000000000000000000000000_0_0011 = .command .fmulP := by decide
theorem test_decode_fredP : decodeWord 0b000000000000000000000000000_0_0100 = .command .fredP := by decide
theorem test_decode_finvP : decodeWord 0b000000000000000000000000000_0_0101 = .command .finvP := by decide
theorem test_decode_faddN : decodeWord 0b000000000000000000000000000_1_0001 = .command .faddN := by decide
theorem test_decode_fsubN : decodeWord 0b000000000000000000000000000_1_0010 = .command .fsubN := by decide
theorem test_decode_fmulN : decodeWord 0b000000000000000000000000000_1_0011 = .command .fmulN := by decide
theorem test_decode_fredN : decodeWord 0b000000000000000000000000000_1_0100 = .command .fredN := by decide
theorem test_decode_finvN : decodeWord 0b000000000000000000000000000_1_0101 = .command .finvN := by decide
theorem test_decode_pchk : decodeWord 0b000000000000000000000000000_0_0110 = .command .pchk := by decide
theorem test_decode_pdbl : decodeWord 0b000000000000000000000000000_0_0111 = .command .pdbl := by decide
theorem test_decode_padd : decodeWord 0b000000000000000000000000000_0_1000 = .command .padd := by decide
theorem test_decode_pmul : decodeWord 0b000000000000000000000000000_0_1001 = .command .pmul := by decide
theorem test_decode_pmulg : decodeWord 0b000000000000000000000000000_0_1010 = .command .pmulg := by decide

/-- The illegal words T13 to T20, each with its reason. -/
theorem test_decode_illegal :
    [0x00000000, 0x00000010, 0x00000016, 0x0000001A, 0x0000000B, 0x0000001F, 0x00000023, 0x80000001].map decodeWord =
      [.illegal .opZero, .illegal .opZero, .illegal .pointWithMod, .illegal .pointWithMod, .illegal .opReserved,
        .illegal .opReserved, .illegal .rsvdNotZero, .illegal .rsvdNotZero] := by decide

/-- The command word lies with its least significant byte in lane 0 (20_memory.md R53). -/
theorem test_decode_bytes : decodeBytes [0x13, 0, 0, 0, 0x55] = (.command .fmulN, [0x55]) ∧
    decodeBytes [0x13, 0, 0] = (.illegal .truncated, [0x13, 0, 0]) ∧ decodeTableWord 5 0x15 = some .finvN := by decide

/-! ## One engine step of each command -/

/-- T31. -/
theorem test_fadd_p :
    succeeds (engineStep (field .faddP (Gx) (Gy)))
      (0xC1F940F620808011B3455E91DC9813AFFFB3B123D4537CF2F63A51EB1208EC50) 0 false false = true := by
  decide +kernel
/-- T34. -/
theorem test_fadd_p_range :
    failsWith (engineStep (field .faddP P 0)) .range = true := by
  decide +kernel
/-- T33. -/
theorem test_fadd_n :
    succeeds (engineStep (field .faddN (N - 1) (N - 1)))
      (N - 2) 0 false false = true := by
  decide +kernel
/-- T35. -/
theorem test_fadd_n_range :
    failsWith (engineStep (field .faddN N 0)) .range = true := by
  decide +kernel
/-- T39: no borrow. -/
theorem test_fsub_p :
    succeeds (engineStep (field .fsubP (Gx) (Gy)))
      (0x31838C07D338F746F7FB6699C076025E058448928748D4BFBDAAB0CB1BE742E0) 0 false false = true := by
  decide +kernel
/-- T37. -/
theorem test_fsub_p_borrow :
    succeeds (engineStep (field .fsubP (0) (1)))
      (P - 1) 0 false false = true := by
  decide +kernel
/-- T38. -/
theorem test_fsub_n :
    succeeds (engineStep (field .fsubN (0) (1)))
      (N - 1) 0 false false = true := by
  decide +kernel
/-- T44. -/
theorem test_fmul_p :
    succeeds (engineStep (field .fmulP (Gx) (Gy)))
      (0xFD3DC529C6EB60FB9D166034CF3C1A5A72324AA9DFD3428A56D7E1CE0179FD9B) 0 false false = true := by
  decide +kernel
/-- T50. -/
theorem test_fmul_p_range :
    failsWith (engineStep (field .fmulP Gx P)) .range = true := by
  decide +kernel
/-- T45. -/
theorem test_fmul_n :
    succeeds (engineStep (field .fmulN (Gx) (Gy)))
      (0x805714A252D0C0B58910907E85B5B801FFF610A36BDF46847A4BF5D9AE2D10ED) 0 false false = true := by
  decide +kernel
/-- T56: OPA is the low half. -/
theorem test_fred_p :
    succeeds (engineStep (field .fredP (Gy) (Gx)))
      (0xE1BCC0BB0FAC63ADF54444BC420E1B452035DD9BD041BAF5737DFEEA438EF54F) 0 false false = true := by
  decide +kernel
/-- T54. -/
theorem test_fred_p_unchecked :
    succeeds (engineStep (field .fredP (P) (0)))
      (0) 0 false false = true := by
  decide +kernel
/-- T53. -/
theorem test_fred_n :
    succeeds (engineStep (field .fredN (2 ^ 256 - 1) (2 ^ 256 - 1)))
      (0x9D671CD581C69BC5E697F5E45BCD07C6741496C20E7CF878896CF21467D7D13F) 0 false false = true := by
  decide +kernel
/-- T62. -/
theorem test_finv_p :
    succeeds (engineStep (field .finvP (Gx) (0)))
      (0x237AFDF1D2938D86870AAEB8AD77626A67B8E794ABFB076BE61D003687CA9EF6) 0 false false = true := by
  decide +kernel
/-- T65. -/
theorem test_finv_p_zero :
    failsWith (engineStep (field .finvP 0 0)) .noInverse = true := by
  decide +kernel
/-- T61. -/
theorem test_finv_n :
    succeeds (engineStep (field .finvN (3) (0)))
      (0xAAAAAAAAAAAAAAAAAAAAAAAAAAAAAAA9D1C9E899CA306AD27FE1945DE0242B81) 0 false false = true := by
  decide +kernel
/-- T68. -/
theorem test_finv_n_range :
    failsWith (engineStep (field .finvN (N + 5) 0)) .range = true := by
  decide +kernel
/-- T73: neg(G). -/
theorem test_pchk_on :
    succeeds (engineStep (point .pchk Gx 0xB7C52588D95C3B9AA25B0403F1EEF75702E84BB7597AABE663B82F6F04EF2777 0 0))
      1 0 false true = true := by
  decide +kernel
/-- T71: off the curve is no error. -/
theorem test_pchk_off :
    succeeds (engineStep (point .pchk Gx (Gy + 1) 0 0)) 0 0 false false = true := by
  decide +kernel
/-- T77. -/
theorem test_pdbl :
    succeeds (engineStep (point .pdbl Gx Gy 0 0))
      0xC6047F9441ED7D6D3045406E95C07CD85C778E4B8CEF3CA7ABAC09B95C709EE5
      0x1AE168FEA63DC339A3C58419466CEAEEF7F632653266D0E1236431A950CFE52A false false = true := by
  decide +kernel
/-- T81. -/
theorem test_pdbl_range_first :
    failsWith (engineStep (point .pdbl Gx P 0 0)) .range = true := by
  decide +kernel
/-- T82. -/
theorem test_padd :
    succeeds (engineStep (point .padd Gx Gy
        0xC6047F9441ED7D6D3045406E95C07CD85C778E4B8CEF3CA7ABAC09B95C709EE5
        0x1AE168FEA63DC339A3C58419466CEAEEF7F632653266D0E1236431A950CFE52A))
      0xF9308A019258C31049344F85F89D5229B531C845836F99B08601F113BCE036F9
      0x388F7B0F632DE8140FE337E62A37F3566500A99934C2231B6CB9FD7584B8E672 false false = true := by
  decide +kernel
/-- T85. -/
theorem test_padd_inverse :
    succeeds (engineStep (point .padd Gx Gy Gx 0xB7C52588D95C3B9AA25B0403F1EEF75702E84BB7597AABE663B82F6F04EF2777))
      0 0 true false = true := by
  decide +kernel
/-- T123, the addition step, as a `pmul` of G. -/
theorem test_pmul_add :
    leadsTo (engineStep (scanning .pmul 6
        (.aff 0xC6047F9441ED7D6D3045406E95C07CD85C778E4B8CEF3CA7ABAC09B95C709EE5
          0x1AE168FEA63DC339A3C58419466CEAEEF7F632653266D0E1236431A950CFE52A) basePoint 1 .add))
      (.aff 0xF9308A019258C31049344F85F89D5229B531C845836F99B08601F113BCE036F9
        0x388F7B0F632DE8140FE337E62A37F3566500A99934C2231B6CB9FD7584B8E672) 0 .dbl = true := by
  decide +kernel
/-- T120. -/
theorem test_pmul_scalar_first :
    failsWith (engineStep (scalar .pmul 0 Gx (Gy + 1))) .scalar = true := by
  decide +kernel
/-- T123, PM_INIT. -/
theorem test_pmulg_start :
    leadsTo (engineStep (scalar .pmulg 6 0 0)) basePoint 1 .dbl = true := by
  decide +kernel
/-- T123, the doubling at a one bit. -/
theorem test_pmulg_double :
    leadsTo (engineStep (scanning .pmulg 6 basePoint basePoint 1 .dbl))
      (.aff 0xC6047F9441ED7D6D3045406E95C07CD85C778E4B8CEF3CA7ABAC09B95C709EE5
        0x1AE168FEA63DC339A3C58419466CEAEEF7F632653266D0E1236431A950CFE52A) 1 .add = true := by
  decide +kernel
/-- T123, the finish. -/
theorem test_finish :
    succeeds (engineStep (scanning .pmulg 6 (.aff 0xF9308A019258C31049344F85F89D5229B531C845836F99B08601F113BCE036F9
        0x388F7B0F632DE8140FE337E62A37F3566500A99934C2231B6CB9FD7584B8E672) basePoint 0x1FF .dbl))
      0xF9308A019258C31049344F85F89D5229B531C845836F99B08601F113BCE036F9
      0x388F7B0F632DE8140FE337E62A37F3566500A99934C2231B6CB9FD7584B8E672 false false = true := by
  decide +kernel

/-! ## The register window (T130 to T149) -/

/-- T01: the words of P, the least significant first; the big-endian byte 0 of the x coordinate of T122. -/
theorem test_words : (List.finRange 8).map (getWord (wide P)) =
      [0xFFFFFC2F, 0xFFFFFFFE, 0xFFFFFFFF, 0xFFFFFFFF, 0xFFFFFFFF, 0xFFFFFFFF, 0xFFFFFFFF, 0xFFFFFFFF] ∧
    beByte (wide 0x55F61B18452AD185CAF67BDFE5BEFE8ABBCEDEDB80DC75D7604D24F52D714FBE) 0 = 0x55 := by
  decide +kernel

/-- T130, T133: ID, and a reserved offset. -/
theorem test_read_id : answered (busAccess ⟨0x000, .word, false, 0⟩ State.reset) (.read 0x534B3101) = true ∧
    answered (busAccess ⟨0x03C, .word, false, 0⟩ State.reset) (.read 0) = true := by decide +kernel

/-- T134, T135: a byte write and a misaligned read are answered ERROR, and no command starts. -/
theorem test_illegal_access : answered (busAccess ⟨0x004, .byte, true, 3⟩ State.reset) .error = true ∧
    answered (busAccess ⟨0x002, .word, false, 0⟩ State.reset) .error = true ∧
    nextHas (busAccess ⟨0x004, .byte, true, 3⟩ State.reset) (fun t => !t.busy && !t.ovr) = true := by decide +kernel

/-- T136, T137: only the bits that exist are written. -/
theorem test_flag_writes :
    nextHas (busAccess ⟨0x014, .word, true, 0xFFFFFFFF⟩ State.reset) (fun t => ptFlagsWord t == 3) = true ∧
    nextHas (busAccess ⟨0x010, .word, true, 0xFFFFFFFF⟩ State.reset) (fun t => irqEnWord t == 1) = true := by
  decide +kernel

/-- T138: STATUS 0x2E, W1C of all ones, leaves 0x08; T140: STATUS 0x26, W1C of 2, leaves 0x24. -/
theorem test_status_w1c :
    nextHas (busAccess ⟨0x008, .word, true, 0xFFFFFFFF⟩
      { State.reset with done := true, err := true, rinf := true, ovr := true }) (fun t => statusWord t == 0x08) = true ∧
    nextHas (busAccess ⟨0x008, .word, true, 2⟩ { State.reset with done := true, err := true, ovr := true })
      (fun t => statusWord t == 0x24) = true := by decide +kernel

/-- T141: an acceptance clears DONE, ERR and ERRCODE. -/
theorem test_accept :
    nextHas (busAccess ⟨0x004, .word, true, 3⟩
        { State.reset with done := true, err := true, errcode := .notOnCurve, resX := 9 })
      (fun t => statusWord t == 1 && t.errcode.word == 0 && t.cmd == 3 && t.resX == 9) = true := by decide +kernel

/-- T142: a CMD write while BUSY is dropped. -/
theorem test_overrun :
    nextHas (busAccess ⟨0x004, .word, true, 1⟩ (scalar .pmulg 6 0 0)) (fun t => t.cmd == 0xA && t.ovr && t.busy) = true := by
  decide +kernel

/-- T147: reset while BUSY. -/
theorem test_reset_while_busy :
    nextHas (step { scalar .pmulg 6 0 0 with turns := [.resetAssert] })
      (fun t => !t.busy && !t.done && t.cmd == 0 && t.inReset) = true := by decide +kernel

/-- An illegal word is accepted and completed with ERRCODE 1, STATUS 6 (T13). -/
theorem test_illegal_word :
    nextHas (step (State.reset.withFetchWord 32 0)) (fun t => statusWord t == 6 && t.errcode.word == 1) = true := by
  decide +kernel

/-! ## Witnesses: the hypotheses of the statements can be met -/

/-- The command `i` is about to take its first step. -/
theorem running_accepted (i : Instr) (a b c d k : Nat) (inf1 inf2 : Bool) :
    Running (accepted i a b c d k inf1 inf2) i := by
  cases i <;> exact ⟨rfl, rfl, rfl⟩

/-- 2G, by T77. -/
def twoG : Point := .aff 0xC6047F9441ED7D6D3045406E95C07CD85C778E4B8CEF3CA7ABAC09B95C709EE5
  0x1AE168FEA63DC339A3C58419466CEAEEF7F632653266D0E1236431A950CFE52A

/-- StepRunsDecodedCommand: a command with no turn given, and at the engine's turn; an illegal word; each other turn, and
no turn in reset and while idle. -/
theorem witness_StepRunsDecodedCommand :
    (Running (field .faddP 0 0) .faddP ∧ (field .faddP 0 0).turns = []) ∧
      Running (setTurns (field .faddP 0 0) [.engine]) .faddP ∧
      (setTurns (field .faddP 0 0) [.engine]).turns = .engine :: [] ∧
      (let s := accept State.reset 0;
        s.inReset = false ∧ s.busy = true ∧ snapCommand s = .illegal .opZero ∧ s.turns = []) ∧
      (∀ t ∈ [Turn.engine, .bus ⟨4, .word, true, 1⟩, .host, .resetRelease],
        (setTurns State.reset [t]).turns = t :: [] ∧ (setTurns State.reset [t]).busy = false) ∧
      ((setReset State.reset true).turns = [] ∧ (setReset State.reset true).inReset = true) ∧
      (State.reset.turns = [] ∧ State.reset.inReset = false ∧ State.reset.busy = false) :=
  ⟨⟨running_accepted _ _ _ _ _ _ _ _, rfl⟩, ⟨rfl, rfl, rfl⟩, rfl, by decide, by decide, by decide, by decide⟩

/-- IllegalWordsCompleteWithIllegalCmd: each of its four conditions at its boundaries. -/
theorem witness_IllegalWords :
    (State.reset.inReset = false ∧ State.reset.busy = false) ∧
      IllegalWord 0x00000000 ∧ IllegalWord 0x0000000B ∧ IllegalWord 0x0000000F ∧ IllegalWord 0x00000021 ∧
      IllegalWord 0x80000001 ∧ IllegalWord 0x00000016 ∧ IllegalWord 0x0000001A := by
  unfold IllegalWord; decide +kernel

/-- CmdWriteWhileIdleIsAccepted, EveryAcceptedCommandCompletes, and the statements about accesses outside reset,
StatusWriteBitByBit among them. -/
theorem witness_idle : State.reset.inReset = false ∧ State.reset.busy = false := by decide

/-- CmdWriteWhileBusyOnlySetsOverrun, HostAccessBeforeCompletion, and the statements about accesses also while BUSY: a
command in progress, reset released. -/
theorem witness_busy : (field .faddP 0 0).inReset = false ∧ (field .faddP 0 0).busy = true := by decide

/-- ErrorCodesOfEachCommand: each error of a command that can raise one. -/
theorem witness_ErrorCodes :
    ∀ p ∈ [(Instr.faddP, field .faddP P 0, ErrCode.range), (.fsubP, field .fsubP 0 P, .range),
        (.fmulP, field .fmulP P 0, .range), (.faddN, field .faddN N 0, .range), (.fsubN, field .fsubN 0 N, .range),
        (.fmulN, field .fmulN N 0, .range), (.finvP, field .finvP P 0, .range), (.finvP, field .finvP 0 0, .noInverse),
        (.finvN, field .finvN N 0, .range), (.finvN, field .finvN 0 0, .noInverse), (.pchk, point .pchk P 0 0 0, .range),
        (.pdbl, point .pdbl P 0 0 0, .range), (.pdbl, point .pdbl 0 0 0 0, .notOnCurve),
        (.padd, point .padd Gx Gy P 0, .range), (.padd, point .padd Gx Gy 0 0, .notOnCurve),
        (.pmul, scalar .pmul 0 0 0, .scalar), (.pmul, scalar .pmul 1 P 0, .range), (.pmul, scalar .pmul 1 0 0, .notOnCurve),
        (.pmulg, scalar .pmulg N 0 0, .scalar)],
      p.2.1.err = false ∧ isNext (exec p.1 p.2.1) (AfterError p.2.1 p.2.2) = true := by decide +kernel

/-- ChecksAreInOrder: an illegal word in progress; each scalar bound; each coordinate bound; a point off the curve. -/
theorem witness_ChecksAreInOrder :
    (let s := accept State.reset 0;
      s.inReset = false ∧ s.busy = true ∧ snapCommand s = .illegal .opZero) ∧
    (∀ k ∈ [0, N], let s := scalar .pmul k 0 0;
      s.pm.started = false ∧ (s.snap.k.toNat = 0 ∨ N ≤ s.snap.k.toNat)) ∧
    (∀ k ∈ [1, N - 1], let s := scalar .pmul k P 0;
      s.pm.started = false ∧ 1 ≤ s.snap.k.toNat ∧ s.snap.k.toNat < N ∧ s.snap.inf1 = false ∧ P ≤ opA s) ∧
    (let s := scalar .pmul 1 0 0;
      s.pm.started = false ∧ 1 ≤ s.snap.k.toNat ∧ s.snap.k.toNat < N ∧ s.snap.inf1 = false ∧ opA s < P ∧ opB s < P ∧
        ¬ OnSecp (opA s) (opB s)) ∧
    (let s := point .pdbl 0 P 0 0;
      s.snap.inf1 = false ∧ P ≤ opB s) ∧
    (let s := point .pdbl (P - 1) (P - 1) 0 0;
      s.snap.inf1 = false ∧ opA s < P ∧ opB s < P ∧ ¬ OnSecp (opA s) (opB s)) ∧
    (let s := point .padd 0 0 0 P;
      s.snap.inf2 = false ∧ P ≤ opD s) ∧
    (let s := point .padd Gx Gy 0 0;
      opA s < P ∧ opB s < P ∧ opC s < P ∧ opD s < P ∧ s.snap.inf2 = false ∧ ¬ OnSecp (opC s) (opD s)) ∧
    P ≤ opA (field .finvP P 0) ∧ N ≤ opA (field .finvN N 0) := by decide +kernel

/-- The field statements: operands at the two ends of the range, and just outside it; 0 and the nonzero ends for FINV;
the range of misuse for ModulusMisuseIsNotDetected. -/
theorem witness_field_operands :
    (∀ p ∈ [(Instr.faddP, P), (.faddN, N), (.fsubP, P), (.fsubN, N), (.fmulP, P), (.fmulN, N), (.finvP, P), (.finvN, N)],
      (opA (field p.1 0 (p.2 - 1)) = 0 ∧ opA (field p.1 0 (p.2 - 1)) < p.2 ∧ opB (field p.1 0 (p.2 - 1)) < p.2) ∧
      (opA (field p.1 (p.2 - 1) 0) ≠ 0 ∧ opA (field p.1 (p.2 - 1) 0) < p.2) ∧ opA (field p.1 1 0) ≠ 0 ∧
      p.2 ≤ opA (field p.1 p.2 0) ∧ p.2 ≤ opB (field p.1 0 p.2)) ∧
    ∀ a ∈ [N, P - 1], N ≤ opA (field .faddP a 0) ∧ opA (field .faddP a 0) < P ∧ opB (field .faddP a 0) < P := by
  decide +kernel

/-- FieldLaws: three operands in range, for each modulus. -/
theorem witness_FieldLaws : ∀ m ∈ [P, N], 0 < m ∧ m - 1 < m ∧ 1 < m ∧ (m - 1 ≠ 0) := by decide +kernel

/-- CurveCheckResult, PointDoublingResult: INF, a point on the curve, one off it, one out of range. -/
theorem witness_one_point :
    (accepted .pdbl 0 0 0 0 0 true false).snap.inf1 = true ∧
    (let s := point .pdbl Gx Gy 0 0;
      s.snap.inf1 = false ∧ opA s < P ∧ opB s < P ∧ OnSecp (opA s) (opB s)) ∧
    (let s := point .pdbl 0 0 0 0;
      s.snap.inf1 = false ∧ opA s < P ∧ opB s < P ∧ ¬ OnSecp (opA s) (opB s)) ∧
    (let s := point .pdbl P 0 0 0;
      s.snap.inf1 = false ∧ P ≤ opA s) := by decide +kernel

/-- PointAdditionResult: both INF, one INF, equal points, inverse points, points with different x. -/
theorem witness_PointAdditionResult :
    (let s := accepted .padd 0 0 0 0 0 true true;
      s.snap.inf1 = true ∧ s.snap.inf2 = true) ∧
    (let s := accepted .padd 0 0 Gx Gy 0 true false;
      s.snap.inf1 = true ∧ s.snap.inf2 = false ∧ opC s < P ∧ opD s < P ∧ OnSecp (opC s) (opD s)) ∧
    (let s := accepted .padd Gx Gy 0 0 0 false true;
      s.snap.inf1 = false ∧ s.snap.inf2 = true ∧ opA s < P ∧ opB s < P ∧ OnSecp (opA s) (opB s)) ∧
    ∀ q ∈ [(Gx, Gy), (Gx, P - Gy), (0xC6047F9441ED7D6D3045406E95C07CD85C778E4B8CEF3CA7ABAC09B95C709EE5,
        0x1AE168FEA63DC339A3C58419466CEAEEF7F632653266D0E1236431A950CFE52A)],
      let s := point .padd Gx Gy q.1 q.2;
      s.snap.inf1 = false ∧ s.snap.inf2 = false ∧ opA s < P ∧ opB s < P ∧ OnSecp (opA s) (opB s) ∧ opC s < P ∧
        opD s < P ∧ OnSecp (opC s) (opD s) ∧
        (q = (Gx, Gy) → opA s = opC s ∧ opB s = opD s) ∧ (q = (Gx, P - Gy) → opA s = opC s ∧ opB s ≠ opD s) ∧
        (q.1 ≠ Gx → opA s ≠ opC s) := by decide +kernel

/-- PointFunctionsStayOnTheCurve, PointAdditionCommutes: points that pass the checks, and range ends. -/
theorem witness_points :
    basePoint.valid = true ∧ twoG.valid = true ∧ Point.inf.valid = true ∧ basePoint.rangeOk = true ∧
      (Point.aff 0 0).rangeOk = true ∧ (Point.aff (P - 1) (P - 1)).rangeOk = true := by decide +kernel

/-- PointFunctionsAreTheGroupLaw, DoubleAndAddIsTheGroupMultiple: P is prime, and the scalars at the ends of the range. -/
theorem witness_group : Fact (Nat.Prime P) ∧ scalarOk (wide 1) = true ∧ scalarOk (wide (N - 1)) = true :=
  ⟨⟨Laws.P_prime⟩, by decide, by decide⟩

/-- ScalarCommandStarts: scalars at the ends of the range, INF and a point on the curve. -/
theorem witness_ScalarCommandStarts :
    ∀ k ∈ [1, N - 1],
      (let s := accepted .pmul 0 0 0 0 k true false;
        s.pm.started = false ∧ 1 ≤ s.snap.k.toNat ∧ s.snap.k.toNat < N ∧ s.snap.inf1 = true) ∧
      (let s := scalar .pmul k Gx Gy;
        s.pm.started = false ∧ 1 ≤ s.snap.k.toNat ∧ s.snap.k.toNat < N ∧ s.snap.inf1 = false ∧ opA s < P ∧ opB s < P ∧
          OnSecp (opA s) (opB s)) := by decide +kernel

/-- ScalarMicroStepsAndFinish: a doubling at a one bit and at a zero bit, an addition, the two finishes. -/
theorem witness_ScalarMicroSteps :
    (let s := scanning .pmul 6 basePoint basePoint 1 .dbl;
      s.pm.started = true ∧ s.pm.idx ≠ 0x1FF ∧ s.pm.phase = .dbl ∧ s.snap.k.getLsbD s.pm.idx.toNat = true) ∧
    (let s := scanning .pmul 6 basePoint basePoint 0 .dbl;
      s.pm.started = true ∧ s.pm.idx ≠ 0x1FF ∧ s.pm.phase = .dbl ∧ s.snap.k.getLsbD s.pm.idx.toNat = false) ∧
    (let s := scanning .pmulg 6 twoG basePoint 1 .add;
      s.pm.started = true ∧ s.pm.idx ≠ 0x1FF ∧ s.pm.phase = .add) ∧
    (let s := scanning .pmul 5 .inf .inf 0x1FF .dbl;
      s.pm.started = true ∧ s.pm.idx = 0x1FF ∧ s.pm.acc.inf = true) ∧
    (let s := scanning .pmulg 6 twoG basePoint 0x1FF .dbl;
      s.pm.started = true ∧ s.pm.idx = 0x1FF ∧ s.pm.acc.inf = false) := by decide +kernel

/-- ScalarMultiplicationRunsItsCountedSteps, GeneratorMultipleIsNeverInfinity: each scalar command about to start. -/
theorem witness_scalar_runs :
    (let s := scalar .pmul (N - 1) Gx Gy;
      Running s .pmul ∧ s.pm.started = false ∧ scalarOk s.snap.k = true ∧ (scalarBase s.snap .pmul).valid = true) ∧
    (let s := scalar .pmulg 1 0 0;
      Running s .pmulg ∧ s.pm.started = false ∧ scalarOk s.snap.k = true ∧ (scalarBase s.snap .pmulg).valid = true) := by
  refine ⟨⟨running_accepted _ _ _ _ _ _ _ _, ?_⟩, running_accepted _ _ _ _ _ _ _ _, ?_⟩ <;> decide +kernel

/-- The step of PMUL and PMULG that completes them, and one step of a whole run of a scalar 1: PM_INIT, then the finish. -/
theorem witness_scalar_completes :
    isNext (exec .pmulg (scanning .pmulg 6 twoG basePoint 0x1FF .dbl))
      (match twoG with
        | .inf => scanning .pmulg 6 twoG basePoint 0x1FF .dbl
        | .aff x y => AfterSuccess (scanning .pmulg 6 twoG basePoint 0x1FF .dbl) x y false false) = true ∧
    nextHas (engineRun 2 (scalar .pmulg 1 0 0)) (fun t => !t.busy && t.done && t.resX == wide Gx) = true := by
  decide +kernel

/-- RegisterMapHasNoAliases, ReadsReturnAndChangeNothing, ReadOnlyAndReservedWritesAreIgnored, OtherWritesAreIdempotent:
offsets at the ends of the reserved and the read-only ranges. -/
theorem witness_offsets :
    (∀ off ∈ [0x018, 0x03C, 0x120, 0xFFC], off % 4 = 0 ∧ off < 4096 ∧ off ≠ 0x004 ∧
      ((0x018 ≤ off ∧ off ≤ 0x03C) ∨ (0x120 ≤ off ∧ off ≤ 0xFFC))) ∧
    (∀ off ∈ [0x000, 0x00C, 0x0E0, 0x11C], off % 4 = 0 ∧ off ≠ 0x004 ∧
      (off = 0x000 ∨ off = 0x00C ∨ (0x0E0 ≤ off ∧ off ≤ 0x11C))) ∧
    (0x11C % 4 = 0 ∧ regAt 0x11C = some (.word .resY 7)) := by decide

/-- OperandWriteChangesOneWord, OperandRegistersHoldWhatTheHostWrote, Wr256LoadsTheRegister: the operand registers. -/
theorem witness_operands : ∀ x ∈ [WideReg.opa, .opb, .opc, .opd, .opk], x ≠ .resX ∧ x ≠ .resY := by decide

/-- IllegalTransactionsAreAnsweredError: a byte and a half access, a misaligned word, the last byte of the window. -/
theorem witness_illegal_transactions :
    ∀ p ∈ [(0, AccessSize.byte), (4, .half), (2, .word), (4095, .word)],
      State.reset.inReset = false ∧ p.1 < 4096 ∧ (p.2 ≠ .word ∨ p.1 % 4 ≠ 0) := by decide

/-- AccessesOutsideWindowOrInResetStop: reset asserted; the addresses just below and just above the window. -/
theorem witness_outside :
    (setReset State.reset true).inReset = true ∧
    (let s := { State.reset with basePage := 1 };
      s.inReset = false ∧ 0xFFF < 4096 * s.basePage ∧ 4096 * s.basePage + 0xFFF < 0x2000) := by decide

/-- A field command that completes in one step (OperandRegistersHoldWhatTheHostWrote, InterruptFollowsDone, ResultsChangeOnlyAtCompletion,
BusyRisesAtAcceptanceAndFallsAtCompletion). -/
theorem witness_completion_step :
    ∃ t, step (field .faddP 1 1) = .next t ∧ engineStep (field .faddP 1 1) = .next t ∧
      (field .faddP 1 1).busy = true ∧ t.busy = false ∧ t.done = true ∧ t.resX ≠ (field .faddP 1 1).resX :=
  ⟨AfterSuccess (field .faddP 1 1) 2 0 false false, isNext_eq (by decide +kernel), isNext_eq (by decide +kernel),
    by decide +kernel⟩

/-- A step that accepts a command (SnapshotChangesOnlyAtAcceptance, BusyRisesAtAcceptanceAndFallsAtCompletion,
ErrcodeChangesOnlyAsItsRuleSays). -/
theorem witness_acceptance_step :
    ∃ t, step { State.reset with turns := [.bus ⟨4, .word, true, 1⟩], opa := 5, errcode := .range } = .next t ∧
      t.busy = true ∧ t.snap.a = 5 ∧ t.errcode = .none :=
  ⟨pushAnswer (accept { State.reset with opa := 5, errcode := .range } 1) .wrote, isNext_eq (by decide +kernel),
    by decide +kernel⟩

/-- A step that ends in an error (ErrcodeChangesOnlyAsItsRuleSays). -/
theorem witness_error_step :
    ∃ t, step (field .faddP P 0) = .next t ∧ t.errcode = .range ∧ t.err = true :=
  ⟨AfterError (field .faddP P 0) .range, isNext_eq (by decide +kernel), by decide +kernel⟩

/-- A step after a recorded host fault (HostFaultIsNeverCleared), and the reset edge (ResetGivesEveryRegisterItsResetValue,
and the reset clauses of the other statements about a step). -/
theorem witness_reset_step :
    ∃ s t : State, s.hostFault = true ∧ s.busy = true ∧ s.turns = .resetAssert :: [] ∧ step s = .next t ∧
      t.inReset = true ∧ t.hostFault = true :=
  ⟨{ field .faddP 1 1 with hostFault := true, turns := [.resetAssert] },
    { State.reset with hostFault := true, inReset := true },
    by decide +kernel, by decide +kernel, rfl, isNext_eq (by decide +kernel), by decide +kernel⟩

/-- HostAccessBeforeCompletion: both accesses are answered while BUSY, and the engine's step after them completes. -/
theorem witness_HostAccessBeforeCompletion :
    (∃ t t', busAccess (wordWrite (field .faddP 1 1) 0x008 2) (field .faddP 1 1) = .next t ∧ engineStep t = .next t' ∧
      t'.busy = false) ∧
    ∃ t t', busAccess (wordWrite (field .faddP 1 1) 0x004 2) (field .faddP 1 1) = .next t ∧ engineStep t = .next t' :=
  ⟨⟨pushAnswer (writeStatus (field .faddP 1 1) 2) .wrote,
      AfterSuccess (pushAnswer (writeStatus (field .faddP 1 1) 2) .wrote) 2 0 false false,
      isNext_eq (by decide +kernel), isNext_eq (by decide +kernel), rfl⟩,
    pushAnswer (overrun (field .faddP 1 1)) .wrote,
      AfterSuccess (pushAnswer (overrun (field .faddP 1 1)) .wrote) 2 0 false false,
      isNext_eq (by decide +kernel), isNext_eq (by decide +kernel)⟩

/-- InterruptFollowsDone: the words that clear DONE and DONE_IE. -/
theorem witness_irq_words : (2#32).getLsbD 1 = true ∧ (0#32).getLsbD 0 = false := by decide

/-- The invariants hold in a state with a scalar command in the middle of its run, whose next step is a doubling
(StepKeepsStatusAndScalarInvariants, StepKeepsWorkingPointsOnTheCurve). -/
theorem witness_invariants :
    StatusInv (scanning .pmulg 6 basePoint basePoint 1 .dbl) ∧ ScalarInv (scanning .pmulg 6 basePoint basePoint 1 .dbl) ∧
      CurveInv (scanning .pmulg 6 basePoint basePoint 1 .dbl) ∧
      ∃ t, step (scanning .pmulg 6 basePoint basePoint 1 .dbl) = .next t ∧ t.pm.phase = .add := by
  refine ⟨?_, ?_, ?_, scanning .pmulg 6 twoG basePoint 1 .add, isNext_eq (by decide +kernel), rfl⟩
  · constructor <;> decide +kernel
  · constructor <;> decide +kernel
  · constructor <;> decide +kernel

/-- PointResultsLieOnTheCurve: each point command, in a state that completes with an affine point. -/
theorem witness_PointResultsLieOnTheCurve :
    ∀ p ∈ [(Instr.pdbl, point .pdbl Gx Gy 0 0), (.padd, point .padd Gx Gy Gx Gy),
        (.pmul, scanning .pmul 6 twoG basePoint 0x1FF .dbl), (.pmulg, scanning .pmulg 6 twoG basePoint 0x1FF .dbl)],
      p.2.busy = true ∧ p.2.err = false ∧ CurveInv p.2 ∧
        nextHas (exec p.1 p.2) (fun t => !t.busy && !t.err && !t.rinf) = true := by
  intro p hp
  simp only [List.mem_cons, List.not_mem_nil, or_false] at hp
  rcases hp with rfl | rfl | rfl | rfl <;>
    refine ⟨by decide +kernel, by decide +kernel, ⟨by decide +kernel, by decide +kernel⟩, by decide +kernel⟩

/-- ResetGivesEveryRegisterItsResetValue: reset asserted with every register at its reset value, a step that stays in
reset, and the release. -/
theorem witness_in_reset :
    RegistersReset (setReset State.reset true) ∧ (setReset State.reset true).inReset = true ∧
      (∃ t, step (setReset State.reset true) = .next t ∧ t.inReset = true) ∧
      RegistersReset (setTurns (setReset State.reset true) [.resetRelease]) ∧
      (setTurns (setReset State.reset true) [.resetRelease]).turns = .resetRelease :: [] ∧
      ∃ t, step (setTurns (setReset State.reset true) [.resetRelease]) = .next t ∧ t.inReset = false := by
  refine ⟨?_, rfl, ⟨setReset State.reset true, rfl, rfl⟩, ?_, rfl, State.reset, rfl, rfl⟩
  · constructor <;> first | rfl | (intro x; cases x <;> rfl)
  · constructor <;> first | rfl | (intro x; cases x <;> rfl)

/-- StepKeepsTemporariesCanonical: temporaries in the canonical form, and the step of an `rd` that sets another. -/
theorem witness_temporaries :
    let s := { State.reset with host := { prog := [.rd .id 0], pc := 0, temps := [(3, 7)] }, turns := [.host] };
    tempsWf s.host.temps = true ∧
      nextHas (step s) (fun t => decide (t.host.temps = [(0, 0x534B3101), (3, 7)])) = true := by decide +kernel

/-- HostRegistersDoNotAffectTheRunningCommand: two states that differ in a host register. -/
theorem witness_same_snapshot :
    let s := field .faddP 1 1;
    let t := { field .faddP 1 1 with opa := 7, resX := 9 };
    s.snap = t.snap ∧ s.pm = t.pm ∧ s.eng = t.eng ∧ s.inReset = t.inReset ∧ s ≠ t := by decide +kernel

/-- HostStatementsRun: each statement next in a program, reset released. -/
theorem witness_HostStatementsRun :
    ∀ stmt ∈ [HostStmt.wr .cmd (.imm 1), .wr .status (.temp 0), .rd .id 0, .bnz 0 1 5, .bz 0 1 5, .b 0, .halt],
      let s := { State.reset with host := { prog := [stmt], pc := 0, temps := [] } };
      s.host.prog[s.host.pc]? = some stmt ∧ s.inReset = false ∧ tempsWf s.host.temps = true := by decide

/-- FinishedRunStays: reset is the end of a run of no program, and a halted program. -/
theorem witness_FinishedRunStays :
    RunOver State.reset ∧ State.reset.turns = [] ∧
      RunOver { State.reset with host := { prog := [.halt], pc := 0, temps := [] } } :=
  ⟨⟨rfl, rfl⟩, rfl, ⟨rfl, rfl⟩⟩

/-- Wr256LoadsTheRegister: a program that begins with the eight writes, and eight host turns. -/
theorem witness_Wr256 :
    let s := { State.reset with host := { prog := wr256 .opa 5 ++ [HostStmt.halt], pc := 0, temps := [] },
                                    turns := List.replicate 8 Turn.host };
    s.inReset = false ∧ s.host.prog.drop s.host.pc = wr256 .opa 5 ++ [HostStmt.halt] ∧ s.turns = List.replicate 8 Turn.host := by
  decide

end Sys2Proof.Tests
end

section
/-! Operand registers and STATUS (10_state.md R24, R33): the register map read through `MapOffset`, a host write of one
word of an operand register, what the step of a command can do to the block, and the bits of STATUS. -/

namespace Sys2Proof.RegisterRules

open Sys2Proof.Machine Sys2Proof.Laws

/-! ## The register map (10_state.md R21) -/

theorem regAt_mapOffset : ∀ r : Reg, regAt (MapOffset r) = some r
  | .id | .cmd | .status | .errcode | .irqEn | .ptFlags => rfl
  | .word x i => by cases x <;> revert i <;> decide

theorem mapOffset_lt : ∀ r : Reg, MapOffset r < 4096
  | .id | .cmd | .status | .errcode | .irqEn | .ptFlags => by decide
  | .word x i => by cases x <;> simp only [MapOffset] <;> omega

theorem mapOffset_aligned : ∀ r : Reg, MapOffset r % 4 = 0
  | .id | .cmd | .status | .errcode | .irqEn | .ptFlags => rfl
  | .word x i => by cases x <;> simp only [MapOffset] <;> omega

theorem readOff_mapOffset (s : State) (r : Reg) : readOff s (MapOffset r) = readReg s r := by
  simp [readOff, regAt_mapOffset]

theorem writeOff_mapOffset (s : State) (r : Reg) (v : Word) : writeOff s (MapOffset r) v = writeReg s v r := by
  simp [writeOff, regAt_mapOffset]

/-- A legal write of a register (20_memory.md R52). -/
theorem busAccess_wordWrite {s : State} (hr : s.inReset = false) (r : Reg) (v : Word) :
    busAccess (wordWrite s (MapOffset r) v) s = .next (pushAnswer (writeReg s v r) .wrote) := by
  rw [wordWrite, busAccess_write s v hr (mapOffset_lt r) (mapOffset_aligned r), writeOff_mapOffset]

/-- Recording an answer changes nothing that is read. -/
@[simp] theorem readReg_pushAnswer (s : State) (a : Answer) (r : Reg) : readReg (pushAnswer s a) r = readReg s r := by
  cases r with
  | word x i => cases x <;> rfl
  | _ => rfl

/-! ## A host write of an operand register (10_state.md R24) -/

theorem getWide_eq_wideValue (s : State) (x : WideReg) : getWide s x = WideValue s x := by cases x <;> rfl

theorem getWide_hostSetWide_same (s : State) (v : Wide) {x : WideReg} (hx : x ≠ .resX) (hy : x ≠ .resY) :
    getWide (hostSetWide s v x) x = v := by
  cases x with
  | resX => exact absurd rfl hx
  | resY => exact absurd rfl hy
  | _ => rfl

theorem getWide_hostSetWide_other (s : State) (v : Wide) {x y : WideReg} (h : y ≠ x) :
    getWide (hostSetWide s v x) y = getWide s y := by
  cases y <;> simp [getWide, h.symm]

/-- A host write of a 256-bit register is read in no other register. -/
theorem readReg_hostSetWide (s : State) (v : Wide) (x : WideReg) {r : Reg} (h : ∀ i, r ≠ .word x i) :
    readReg (hostSetWide s v x) r = readReg s r := by
  cases r with
  | word y j =>
    have hyx : y ≠ x := fun hc => h j (hc ▸ rfl)
    simp only [readReg, getWide_hostSetWide_other s v hyx]
  | _ => simp [readReg, statusWord, irqEnWord, ptFlagsWord]

theorem readReg_writeWord_same (s : State) (v : Word) {x : WideReg} (i : Fin 8) (hx : x ≠ .resX) (hy : x ≠ .resY) :
    readReg (writeReg s v (.word x i)) (.word x i) = v := by
  simp only [readReg, writeReg, getWide_hostSetWide_same s _ hx hy, getWord_setWord_same]

theorem readReg_writeWord_other (s : State) (v : Word) {x : WideReg} {i : Fin 8} (hx : x ≠ .resX) (hy : x ≠ .resY)
    {r : Reg} (h : r ≠ .word x i) : readReg (writeReg s v (.word x i)) r = readReg s r := by
  by_cases hr : ∃ j, r = .word x j
  · obtain ⟨j, rfl⟩ := hr
    have hij : i ≠ j := fun hc => h (hc ▸ rfl)
    simp only [readReg, writeReg, getWide_hostSetWide_same s _ hx hy, getWord_setWord_other _ _ _ _ hij]
  · exact readReg_hostSetWide s _ x fun j hj => hr ⟨j, hj⟩

/-- The frame of a host write of a 256-bit register, with the answer recorded after it. -/
theorem pushAnswer_hostSetWide_frame (s : State) (v : Wide) (x : WideReg) (a : Answer) :
    let t := pushAnswer (hostSetWide s v x) a
    t = { s with opa := t.opa, opb := t.opb, opc := t.opc, opd := t.opd, opk := t.opk, answers := t.answers } := by
  cases x <;> rfl

/-! ## What an engine step can do -/

/-- What one step of a command can do: the two completions (60_exceptions.md R134, R135), PM_INIT and the two
micro-steps of the scalar engine (42_scalar_mult.md R119 to R121). -/
inductive CommandEffect (s : State) : State → Prop
  | success (rx ry : Wide) (rinf oncurve : Bool) : CommandEffect s (completeOk s rx ry rinf oncurve)
  | error (code : ErrCode) : CommandEffect s (raiseError s code)
  | init (base : Point) : CommandEffect s (pmInit s base)
  | double : CommandEffect s (pmDouble s)
  | add : CommandEffect s (pmAdd s)

theorem CommandEffect.point (s : State) (q : Point) : CommandEffect s (completePoint s q) := by
  rw [completePoint_eq]; exact .success ..

theorem fieldBinary_effect {f : Nat → Nat → Nat → Nat} {m : Nat} {s t : State} (h : fieldBinary f m s = .next t) :
    CommandEffect s t := by
  obtain ⟨_, _, h'⟩ | ⟨_, h'⟩ := fieldBinary_cases f m s <;> cases h'.symm.trans h
  · exact .success ..
  · exact .error _

theorem fieldReduce_effect {m : Nat} {s t : State} (h : fieldReduce m s = .next t) : CommandEffect s t := by
  cases h; exact .success ..

theorem fieldInverse_effect {m : Nat} {s t : State} (h : fieldInverse m s = .next t) : CommandEffect s t := by
  obtain ⟨_, _, h'⟩ | ⟨_, _, h'⟩ | ⟨_, h'⟩ := fieldInverse_cases m s <;> cases h'.symm.trans h
  · exact .success ..
  · exact .error _
  · exact .error _

theorem execPchk_effect {s t : State} (h : execPchk s = .next t) : CommandEffect s t := by
  unfold execPchk at h
  split at h <;> cases h
  · exact .success ..
  · exact .error _

theorem withPoints_effect {qs : List Point} {f : State → Point} {s t : State}
    (h : withPoints s qs (fun s => completePoint s (f s)) = .next t) : CommandEffect s t := by
  obtain ⟨_, h'⟩ | ⟨c, _, h'⟩ := withPoints_cases s qs (fun s => completePoint s (f s)) <;>
    cases h'.symm.trans h
  · exact .point s _
  · exact .error c

theorem pmStart_effect {base : Point} {qs : List Point} {s t : State} (h : pmStart s base qs = .next t) :
    CommandEffect s t := by
  obtain ⟨_, h'⟩ | ⟨_, _, h'⟩ | ⟨c, _, _, h'⟩ := pmStart_cases s base qs <;> cases h'.symm.trans h
  · exact .error _
  · exact .init base
  · exact .error c

theorem pmStep_effect (s : State) : CommandEffect s (pmStep s) := by
  obtain ⟨_, h⟩ | ⟨_, _, h⟩ | ⟨_, _, h⟩ := pmStep_cases s <;> rw [h]
  · exact .point s _
  · exact .double
  · exact .add

/-- The step of a scalar command: a micro-step or the finish once PM_INIT is done, else the start. -/
theorem scalar_effect {base : Point} {qs : List Point} {s t : State}
    (h : (if s.pm.started then .next (pmStep s) else pmStart s base qs) = Host.Outcome.next t) : CommandEffect s t := by
  split at h
  · cases h; exact pmStep_effect s
  · exact pmStart_effect h

theorem exec_effect {i : Instr} {s t : State} (h : exec i s = .next t) : CommandEffect s t := by
  cases i with
  | faddP | fsubP | fmulP | faddN | fsubN | fmulN => exact fieldBinary_effect h
  | fredP | fredN => exact fieldReduce_effect h
  | finvP | finvN => exact fieldInverse_effect h
  | pchk => exact execPchk_effect h
  | pdbl => exact withPoints_effect (f := fun s => dbl s.snap.pt1) h
  | padd => exact withPoints_effect (f := fun s => add s.snap.pt1 s.snap.pt2) h
  | pmul | pmulg => exact scalar_effect h

theorem CommandEffect.wideValue {s t : State} (h : CommandEffect s t) {x : WideReg} (hx : x ≠ .resX)
    (hy : x ≠ .resY) : WideValue t x = WideValue s x := by
  cases x with
  | resX => exact absurd rfl hx
  | resY => exact absurd rfl hy
  | _ => cases h <;> simp [WideValue]

/-- The engine never writes an operand register (10_state.md R24). -/
theorem engineStep_wideValue {s t : State} (h : engineStep s = .next t) {x : WideReg} (hx : x ≠ .resX)
    (hy : x ≠ .resY) : WideValue t x = WideValue s x := by
  obtain ⟨_, rfl⟩ | ⟨_, _, ⟨i, _, hi⟩ | ⟨_, _, rfl⟩⟩ := engineStep_cases h
  · rfl
  · exact (exec_effect hi).wideValue hx hy
  · exact (CommandEffect.error (s := s) .illegalCmd).wideValue hx hy

/-! ## The bits of STATUS (10_state.md R27 to R33) -/

theorem getLsbD_statusWord (s : State) (j : Nat) :
    (statusWord s).getLsbD j = [s.busy, s.done, s.err, s.rinf, s.oncurve, s.ovr].getD j false := by
  simp only [statusWord, BitVec.getLsbD_setWidth, BitVec.getLsbD_append]
  match j with
  | 0 | 1 | 2 | 3 | 4 | 5 => simp
  | n + 6 => simp

theorem getLsbD_statusWord_writeStatus (s : State) (v : Word) (j : Nat) :
    (statusWord (writeStatus s v)).getLsbD j =
      if j = 1 ∨ j = 2 ∨ j = 5 then (statusWord s).getLsbD j && !v.getLsbD j else (statusWord s).getLsbD j := by
  simp only [getLsbD_statusWord]
  match j with
  | 0 | 1 | 2 | 3 | 4 | 5 => simp
  | n + 6 => simp

end Sys2Proof.RegisterRules

open Sys2Proof Sys2Proof.Machine Sys2Proof.RegisterRules

/-- Settles O59 (10_state.md R24): a word write by the rules of the register map and of the words of a 256-bit register,
the engine's part by what a command's step can do. -/
theorem operandRegistersHoldWhatTheHostWrote : Obligations.OperandRegistersHoldWhatTheHostWrote := by
  unfold Obligations.OperandRegistersHoldWhatTheHostWrote
  refine ⟨fun s x i v hr hx hy => ⟨_, busAccess_wordWrite hr _ v, ?_, fun r h => ?_, ?_⟩,
    fun s t x hx hy h => engineStep_wideValue h hx hy, fun s x i => ?_, fun x => by cases x <;> rfl⟩
  · rw [readOff_mapOffset, readReg_pushAnswer, readReg_writeWord_same s v i hx hy]
  · rw [readOff_mapOffset, readOff_mapOffset, readReg_pushAnswer, readReg_writeWord_other s v hx hy h]
  · exact pushAnswer_hostSetWide_frame s _ x _
  · rw [readOff_mapOffset, readReg, getWide_eq_wideValue]

/-- Settles O60 (10_state.md R33), bit by bit on the STATUS word as it is read. -/
theorem statusWriteBitByBit : Obligations.StatusWriteBitByBit := by
  unfold Obligations.StatusWriteBitByBit
  refine ⟨fun s j hj => ?_, fun s v hr =>
    ⟨_, busAccess_wordWrite hr .status v, getLsbD_statusWord_writeStatus s v, rfl⟩⟩
  calc (readOff s 0x008).getLsbD j
    _ = [s.busy, s.done, s.err, s.rinf, s.oncurve, s.ovr].getD j false := getLsbD_statusWord s j
    _ = false := List.getD_eq_default _ _ hj

end

section
/-! The command words (30_encoding.md R73 to R87): the fields of a word survive joining and splitting, so a command's word
decodes to it. -/

namespace Sys2Proof.CommandWords

@[simp] theorem splitWord_joinWord (f : CmdFields) : splitWord (joinWord f) = f := by
  obtain ⟨op, mod, rsvd⟩ := f
  have hop : (rsvd ++ mod ++ op).extractLsb' 0 4 = op := BitVec.extractLsb'_append_eq_right
  have hmod : (rsvd ++ mod ++ op).extractLsb' 4 1 = mod := by
    rw [BitVec.extractLsb'_append_eq_of_le (by decide)]
    exact BitVec.extractLsb'_append_eq_right
  have hrsvd : (rsvd ++ mod ++ op).extractLsb' 5 27 = rsvd := by
    rw [BitVec.extractLsb'_append_eq_of_le (by decide)]
    exact BitVec.extractLsb'_append_eq_left
  exact congr (congr (congrArg CmdFields.mk hop) hmod) hrsvd

/-- The table of R76 read back: every command stands in the cell of its own fields. -/
theorem decodeFields_encodeFields : ∀ i : Instr, decodeFields (encodeFields i) = .command i
  | .faddP | .fsubP | .fmulP | .fredP | .finvP => rfl
  | .faddN | .fsubN | .fmulN | .fredN | .finvN => rfl
  | .pchk | .pdbl | .padd | .pmul | .pmulg => rfl

@[simp] theorem decodeWord_encode (i : Instr) : decodeWord (encode i) = .command i := by
  rw [decodeWord, encode, splitWord_joinWord, decodeFields_encodeFields]

end Sys2Proof.CommandWords

open Sys2Proof Sys2Proof.CommandWords

/-- Settles O1 (30_encoding.md R87): each row of the table is what its command encodes to, and a command's word decodes
to it. -/
theorem commandWordsDecode : Obligations.CommandWordsDecode := by
  unfold Obligations.CommandWordsDecode
  intro p hrow
  have hword : encode p.2 = p.1 := by
    revert p
    decide
  exact ⟨hword ▸ decodeWord_encode p.2, hword⟩

end

section
/-! The decoder from the word's side (30_encoding.md R73 to R81): a word is the join of its fields and of its byte lanes,
the fields are the word's bits as numbers, and the table of R76 names each command once and is empty elsewhere. -/

namespace Sys2Proof.CommandWords

@[simp] theorem joinWord_splitWord (w : Word) : joinWord (splitWord w) = w := by
  have hmod : w.extractLsb' 5 27 ++ w.extractLsb' 4 1 = w.extractLsb' 4 28 :=
    BitVec.extractLsb'_append_extractLsb'_eq_extractLsb' rfl
  have hop : w.extractLsb' 4 28 ++ w.extractLsb' 0 4 = w.extractLsb' 0 32 :=
    BitVec.extractLsb'_append_extractLsb'_eq_extractLsb' rfl
  calc joinWord (splitWord w)
    _ = w.extractLsb' 5 27 ++ w.extractLsb' 4 1 ++ w.extractLsb' 0 4 := rfl
    _ = w := by rw [hmod, hop, BitVec.extractLsb'_eq_self]

/-- The fields of a word as numbers (30_encoding.md R74). -/
theorem splitWord_eq_ofNat (w : Word) :
    splitWord w =
      ⟨BitVec.ofNat 4 w.toNat, BitVec.ofNat 1 (w.toNat / 16), BitVec.ofNat 27 (w.toNat / 32)⟩ := by
  simp [splitWord, BitVec.extractLsb', Nat.shiftRight_eq_div_pow]

/-- The byte lanes of a word put together again (20_memory.md R53). -/
theorem wordOfBytes_lanes (w : Word) :
    wordOfBytes (w.extractLsb' 0 8) (w.extractLsb' 8 8) (w.extractLsb' 16 8) (w.extractLsb' 24 8) = w := by
  have h2 : w.extractLsb' 24 8 ++ w.extractLsb' 16 8 = w.extractLsb' 16 16 :=
    BitVec.extractLsb'_append_extractLsb'_eq_extractLsb' rfl
  have h1 : w.extractLsb' 16 16 ++ w.extractLsb' 8 8 = w.extractLsb' 8 24 :=
    BitVec.extractLsb'_append_extractLsb'_eq_extractLsb' rfl
  have h0 : w.extractLsb' 8 24 ++ w.extractLsb' 0 8 = w.extractLsb' 0 32 :=
    BitVec.extractLsb'_append_extractLsb'_eq_extractLsb' rfl
  rw [wordOfBytes, h2, h1, h0, BitVec.extractLsb'_eq_self]

/-- Decoding the byte lanes of a word decodes the word and leaves the bytes after it. -/
theorem decodeBytes_bytesOfWord_append (w : Word) (rest : List Byte) :
    decodeBytes (bytesOfWord w ++ rest) = (decodeWord w, rest) :=
  congrArg (fun v => (decodeWord v, rest)) (wordOfBytes_lanes w)

theorem decodeBytes_bytesOfWord (w : Word) : decodeBytes (bytesOfWord w) = (decodeWord w, []) :=
  decodeBytes_bytesOfWord_append w []

/-- A command stands in one cell of the table of R76 only. -/
theorem lookupOp_eq_command {i : Instr} {op : BitVec 4} {mod : BitVec 1} (h : lookupOp op mod = .command i) :
    op = opOf i ∧ mod = modOf i := by
  cases i <;> revert op mod <;> decide

theorem decodeFields_eq_command {f : CmdFields} {i : Instr} (h : decodeFields f = .command i) : f = encodeFields i := by
  obtain ⟨op, mod, rsvd⟩ := f
  unfold decodeFields at h
  split at h
  · rename_i hrsvd
    obtain ⟨rfl, rfl⟩ := lookupOp_eq_command h
    exact congrArg (CmdFields.mk (opOf i) (modOf i)) hrsvd
  · cases h

theorem decodeWord_eq_command_iff (w : Word) (i : Instr) : decodeWord w = .command i ↔ w = encode i := by
  constructor
  · intro h
    rw [encode, ← decodeFields_eq_command h, joinWord_splitWord]
  · rintro rfl
    exact decodeWord_encode i

theorem byModulus_not_illegal (mod : BitVec 1) (p n : Instr) : ¬ ∃ why, byModulus mod p n = .illegal why := by
  unfold byModulus
  split <;> nofun

theorem pointOnly_illegal_iff (mod : BitVec 1) (i : Instr) : (∃ why, pointOnly mod i = .illegal why) ↔ mod ≠ 0 := by
  unfold pointOnly
  split
  · rename_i h; exact ⟨nofun, fun hc => absurd h hc⟩
  · rename_i h; exact ⟨fun _ => h, fun _ => ⟨_, rfl⟩⟩

/-- The empty cells of the table of R76. -/
theorem lookupOp_illegal_iff (op : BitVec 4) (mod : BitVec 1) :
    (∃ why, lookupOp op mod = .illegal why) ↔
      op.toNat = 0 ∨ 0xB ≤ op.toNat ∨ (0x6 ≤ op.toNat ∧ op.toNat ≤ 0xA ∧ mod ≠ 0) := by
  unfold lookupOp
  split
  case h_11 hop => simp [hop]
  case h_12 =>
    have hop : 0xB ≤ op.toNat := by
      simp only [imp_false] at *
      omega
    exact ⟨fun _ => .inr (.inl hop), fun _ => ⟨_, rfl⟩⟩
  all_goals
    rename_i hop
    simp [byModulus_not_illegal, pointOnly_illegal_iff, hop]

/-- A word is rejected exactly under the four conditions of R78. -/
theorem illegalWord_iff (w : Word) : IllegalWord w ↔ ∃ why, decodeWord w = .illegal why := by
  have hlt := w.isLt
  have hrsvd : (BitVec.ofNat 27 (w.toNat / 32) = 0) ↔ w.toNat / 32 = 0 := by
    rw [← BitVec.toNat_inj, BitVec.toNat_ofNat, Nat.mod_eq_of_lt (by omega)]
    rfl
  have hmod : (BitVec.ofNat 1 (w.toNat / 16) ≠ 0) ↔ w.toNat / 16 % 2 = 1 := by
    rw [ne_eq, ← BitVec.toNat_inj, BitVec.toNat_ofNat]
    simp
  unfold IllegalWord decodeWord decodeFields
  rw [splitWord_eq_ofNat]
  by_cases h : w.toNat / 32 = 0
  · rw [if_pos (hrsvd.2 h), lookupOp_illegal_iff, hmod, BitVec.toNat_ofNat]
    simp [h]
  · rw [if_neg (mt hrsvd.1 h)]
    simp [h]

end Sys2Proof.CommandWords

open Sys2Proof Sys2Proof.CommandWords

/-- Settles O2 (30_encoding.md R73 to R81; 20_memory.md R53): the table names each command once, and fields and byte lanes
determine the word. -/
theorem decodeInvertsEncode : Obligations.DecodeInvertsEncode := by
  unfold Obligations.DecodeInvertsEncode
  refine ⟨fun i w => decodeWord_eq_command_iff w i, fun i rest => ?_, decodeBytes_bytesOfWord⟩
  rw [decodeBytes_bytesOfWord_append, decodeWord_encode]

end

section
/-! The field commands (40_field_arith.md R88 to R96): the laws of the field functions, by their values in ZMod m, and the
completion of each shape of field command as the statements write it out. -/

namespace Sys2Proof.FieldRules

open Sys2Proof.Machine Sys2Proof.Laws Sys2Proof.Config

/-! ## The two moduli and the laws of the field functions -/

theorem forall_mem_pair {α : Type} {p : α → Prop} {a b : α} (ha : p a) (hb : p b) : ∀ x ∈ [a, b], p x := by
  simp [ha, hb]

theorem modulus_prime : ∀ m ∈ [P, N], m.Prime := forall_mem_pair P_prime N_prime

theorem modulus_lt : ∀ m ∈ [P, N], m < 2 ^ 256 := forall_mem_pair P_lt N_lt

/-- Numbers in range are equal when they are equal modulo `m`. -/
theorem eq_of_cast_eq {m a b : Nat} (ha : a < m) (hb : b < m) (h : (a : ZMod m) = b) : a = b := by
  rwa [ZMod.natCast_eq_natCast_iff', Nat.mod_eq_of_lt ha, Nat.mod_eq_of_lt hb] at h

theorem gcd_eq_one_iff_ne_zero {a m : Nat} (hp : m.Prime) (ha : a < m) : Nat.gcd a m = 1 ↔ a ≠ 0 := by
  constructor
  · rintro h rfl
    rw [Nat.gcd_zero_left] at h
    exact hp.one_lt.ne' h
  · exact fun h => (Nat.coprime_of_lt_prime h ha hp).symm

theorem fMul_fInv {a m : Nat} (hp : m.Prime) (hm : m < 2 ^ 256) (h0 : a ≠ 0) (ha : a < m) : fMul a (fInv a m) m = 1 :=
  fInv_mul_mod hp.one_lt ha hm ((gcd_eq_one_iff_ne_zero hp ha).2 h0)

/-- The inverse is the only number in range that gives 1 (00_scope.md R12). -/
theorem eq_fInv {a r m : Nat} (hp : m.Prime) (hm : m < 2 ^ 256) (h0 : a ≠ 0) (ha : a < m) (hr : r < m)
    (h : a * r % m = 1) : r = fInv a m := by
  have hinv := cast_fInv_mul ha hm ((gcd_eq_one_iff_ne_zero hp ha).2 h0)
  have har : (a * r : ZMod m) = 1 := by
    rw [← Nat.cast_mul, ← ZMod.natCast_mod, h, Nat.cast_one]
  refine eq_of_cast_eq hr (fInv_lt hp.pos a) ?_
  linear_combination (fInv a m : ZMod m) * har - (r : ZMod m) * hinv

theorem fInv_pos {a m : Nat} (hp : m.Prime) (hm : m < 2 ^ 256) (h0 : a ≠ 0) (ha : a < m) : 1 ≤ fInv a m := by
  have h := fMul_fInv hp hm h0 ha
  by_contra hc
  rw [show fInv a m = 0 by omega, fMul, Nat.mul_zero, Nat.zero_mod] at h
  exact absurd h (by decide)

theorem fAdd_comm (a b m : Nat) : fAdd a b m = fAdd b a m := by rw [fAdd, Nat.add_comm, ← fAdd]

theorem fMul_comm (a b m : Nat) : fMul a b m = fMul b a m := by rw [fMul, Nat.mul_comm, ← fMul]

theorem fAdd_assoc {m : Nat} (hm : 0 < m) (a b c : Nat) : fAdd (fAdd a b m) c m = fAdd a (fAdd b c m) m := by
  refine eq_of_cast_eq (fAdd_lt hm _ _) (fAdd_lt hm _ _) ?_
  simp only [cast_fAdd]
  ring

theorem fMul_assoc {m : Nat} (hm : 0 < m) (a b c : Nat) : fMul (fMul a b m) c m = fMul a (fMul b c m) m := by
  refine eq_of_cast_eq (fMul_lt hm _ _) (fMul_lt hm _ _) ?_
  simp only [cast_fMul]
  ring

theorem fMul_fAdd {m : Nat} (hm : 0 < m) (a b c : Nat) :
    fMul a (fAdd b c m) m = fAdd (fMul a b m) (fMul a c m) m := by
  refine eq_of_cast_eq (fMul_lt hm _ _) (fAdd_lt hm _ _) ?_
  simp only [cast_fMul, cast_fAdd]
  ring

theorem fSub_eq_fAdd_neg {m : Nat} (hm : 0 < m) (a b : Nat) : fSub a b m = fAdd a (fSub 0 b m) m := by
  refine eq_of_cast_eq (fSub_lt hm _ _) (fAdd_lt hm _ _) ?_
  simp only [cast_fAdd, cast_fSub hm, Nat.cast_zero]
  ring

/-! ## The completions of the field commands -/

/-- FADD, FSUB and FMUL: the function's value with operands in range, else E_RANGE (40_field_arith.md R89). -/
theorem fieldBinary_result (f : Nat → Nat → Nat → Nat) (m : Nat) (s : State) :
    (opA s < m → opB s < m → fieldBinary f m s = .next (AfterSuccess s (f (opA s) (opB s) m) 0 false false)) ∧
      (m ≤ opA s ∨ m ≤ opB s → fieldBinary f m s = .next (AfterError s .range)) := by
  obtain ⟨ha, hb, h⟩ | ⟨hr, h⟩ := fieldBinary_cases f m s
  · exact ⟨fun _ _ => h, fun hr => (hr.elim ha.not_ge hb.not_ge).elim⟩
  · exact ⟨fun ha hb => (hr.elim ha.not_ge hb.not_ge).elim, fun _ => h⟩

theorem fieldInverse_of_ne_zero {m : Nat} (hp : m.Prime) {s : State} (h0 : opA s ≠ 0) (ha : opA s < m) :
    fieldInverse m s = .next (AfterSuccess s (fInv (opA s) m) 0 false false) := by
  obtain ⟨_, _, h⟩ | ⟨_, hg, _⟩ | ⟨hr, _⟩ := fieldInverse_cases m s
  · exact h
  · exact absurd ((gcd_eq_one_iff_ne_zero hp ha).2 h0) hg
  · exact absurd ha hr.not_gt

theorem fieldInverse_of_zero {m : Nat} (hp : m.Prime) {s : State} (h0 : opA s = 0) :
    fieldInverse m s = .next (AfterError s .noInverse) := by
  obtain ⟨ha, hg, _⟩ | ⟨_, _, h⟩ | ⟨hr, _⟩ := fieldInverse_cases m s
  · exact absurd h0 ((gcd_eq_one_iff_ne_zero hp ha).1 hg)
  · exact h
  · exact absurd (hp.pos.trans_le (hr.trans_eq h0)) (Nat.lt_irrefl 0)

theorem fieldInverse_of_le {m : Nat} {s : State} (hr : m ≤ opA s) :
    fieldInverse m s = .next (AfterError s .range) := by
  obtain ⟨ha, _⟩ | ⟨ha, _⟩ | ⟨_, h⟩ := fieldInverse_cases m s
  · exact absurd ha hr.not_gt
  · exact absurd ha hr.not_gt
  · exact h

end Sys2Proof.FieldRules

open Sys2Proof Sys2Proof.Machine Sys2Proof.Config Sys2Proof.Laws Sys2Proof.FieldRules

/-- Settles O11 (40_field_arith.md R90): the shared shape of the commands with two checked operands, at addition. -/
theorem fieldAdditionResult : Obligations.FieldAdditionResult := by
  unfold Obligations.FieldAdditionResult
  exact ⟨by decide, by decide, forall_mem_pair (fieldBinary_result fAdd P) (fieldBinary_result fAdd N)⟩

/-- Settles O12 (40_field_arith.md R91): the shared shape at subtraction, which borrows at most once. -/
theorem fieldSubtractionResult : Obligations.FieldSubtractionResult := by
  unfold Obligations.FieldSubtractionResult
  have hsub : ∀ m (s : State),
      (opA s < m → opB s < m → fieldBinary fSub m s = .next (AfterSuccess s
        (if opB s ≤ opA s then opA s - opB s else opA s + m - opB s) 0 false false)) ∧
      (m ≤ opA s ∨ m ≤ opB s → fieldBinary fSub m s = .next (AfterError s .range)) := fun m s =>
    ⟨fun ha hb => fSub_of_lt ha hb ▸ (fieldBinary_result fSub m s).1 ha hb, (fieldBinary_result fSub m s).2⟩
  exact ⟨by decide, by decide, forall_mem_pair (hsub P) (hsub N)⟩

/-- Settles O13 (40_field_arith.md R92): the shared shape at the product, exact and then reduced. -/
theorem fieldMultiplicationResult : Obligations.FieldMultiplicationResult := by
  unfold Obligations.FieldMultiplicationResult
  exact ⟨by decide, by decide,
    forall_mem_pair (fieldBinary_result mulThenReduce P) (fieldBinary_result mulThenReduce N)⟩

/-- Settles O14 (40_field_arith.md R93): FRED has no check, so its one step is the completion. -/
theorem fieldReductionResult : Obligations.FieldReductionResult := by
  unfold Obligations.FieldReductionResult
  exact ⟨by decide, by decide, forall_mem_pair (fun _ => rfl) (fun _ => rfl)⟩

/-- Settles O15 (40_field_arith.md R94): both moduli being prime, exactly 0 has no inverse in range, and an inverse is
unique. -/
theorem fieldInverseResult : Obligations.FieldInverseResult := by
  unfold Obligations.FieldInverseResult
  have hinv : ∀ m ∈ [P, N], ∀ s : State,
      (opA s ≠ 0 → opA s < m → ∃ r, (1 ≤ r ∧ r < m ∧ opA s * r % m = 1) ∧
        (∀ r', 1 ≤ r' → r' < m → opA s * r' % m = 1 → r' = r) ∧
        fieldInverse m s = .next (AfterSuccess s r 0 false false)) ∧
      (opA s = 0 → fieldInverse m s = .next (AfterError s .noInverse)) ∧
      (m ≤ opA s → fieldInverse m s = .next (AfterError s .range)) := by
    intro m hmem s
    have hp := modulus_prime m hmem
    have hm := modulus_lt m hmem
    refine ⟨fun h0 ha => ?_, fieldInverse_of_zero hp, fieldInverse_of_le⟩
    exact ⟨fInv (opA s) m, ⟨fInv_pos hp hm h0 ha, fInv_lt hp.pos _, fMul_fInv hp hm h0 ha⟩,
      fun r' _ hr h => eq_fInv hp hm h0 ha hr h, fieldInverse_of_ne_zero hp h0 ha⟩
  exact ⟨by decide, by decide, forall_mem_pair (hinv P (by simp)) (hinv N (by simp))⟩

/-- Settles O16 (40_field_arith.md R95), each law by the values in ZMod m. -/
theorem fieldLaws : Obligations.FieldLaws := by
  unfold Obligations.FieldLaws
  intro m hmem a b c ha _ _
  have hp := modulus_prime m hmem
  exact ⟨fAdd_comm a b m, fMul_comm a b m, fAdd_assoc hp.pos a b c, fMul_assoc hp.pos a b c, fMul_fAdd hp.pos a b c,
    fSub_eq_fAdd_neg hp.pos a b, fun h0 => fMul_fInv hp (modulus_lt m hmem) h0 ha⟩

/-- Settles O17 (40_field_arith.md R96): the range check is against the command's own modulus. -/
theorem modulusMisuseIsNotDetected : Obligations.ModulusMisuseIsNotDetected := by
  unfold Obligations.ModulusMisuseIsNotDetected
  intro s hN hP hb
  have h0 : opA s ≠ 0 := by have := N_prime.pos; omega
  exact ⟨⟨_, (fieldBinary_result fAdd P s).1 hP hb⟩, ⟨_, (fieldBinary_result fSub P s).1 hP hb⟩,
    ⟨_, (fieldBinary_result mulThenReduce P s).1 hP hb⟩, ⟨_, fieldInverse_of_ne_zero P_prime h0 hP⟩,
    (fieldBinary_result fAdd N s).2 (.inl hN), (fieldBinary_result fSub N s).2 (.inl hN),
    (fieldBinary_result mulThenReduce N s).2 (.inl hN), fieldInverse_of_le hN⟩

end

section
/-! The point functions (41_curve_points.md R103 to R110) over the field of P elements: the curve equation and the formulas
of R105 and R106 as equations in ZMod P, the closure, and the group law of the curve as Mathlib has it. The slope is
described by its product with the denominator, so that no statement needs a division. -/

namespace Sys2Proof.CurveRules

open Sys2Proof.Machine Sys2Proof.Laws Sys2Proof.Config Sys2Proof.FieldRules

/-! ## The curve equation -/

theorem fact_prime_P : Fact (Nat.Prime P) := ⟨P_prime⟩

theorem P_pos : 0 < P := P_prime.pos

theorem onCurve_iff (x y : Nat) : onCurve x y = true ↔ OnSecp x y := by
  simp [onCurve, A, B, OnSecp]

theorem onSecp_iff_cast (x y : Nat) : OnSecp x y ↔ (y : ZMod P) ^ 2 = (x : ZMod P) ^ 3 + 7 := by
  rw [OnSecp, ← ZMod.natCast_eq_natCast_iff']
  push_cast
  rw [pow_two, pow_succ, pow_two]

/-- `-7` is no cube modulo a prime `p` with `p - 1 = 3·e`, `e` even, when `7 ^ e` is not 1: the cube of `x` to the power
`e` is `x ^ (p - 1)`. -/
theorem cube_add_seven_ne_zero {p e : Nat} [Fact p.Prime] (h7 : 7 < p) (h3 : 3 * e = p - 1) (heven : Even e)
    (he : e < 2 ^ 256) (hpow : powMod p 256 7 e ≠ 1) (x : ZMod p) : x ^ 3 + 7 ≠ 0 := by
  intro hx
  have hcube : x ^ 3 = -7 := by linear_combination hx
  have h7ne : (7 : ZMod p) ≠ 0 := fun h0 => by
    have := eq_of_cast_eq h7 (by omega : 0 < p) (by simpa using h0)
    omega
  have hx0 : x ≠ 0 := by
    rintro rfl
    exact h7ne (by linear_combination hx)
  have hseven : (7 : ZMod p) ^ e = 1 := by
    calc (7 : ZMod p) ^ e
      _ = (x ^ 3) ^ e := by rw [hcube, heven.neg_pow]
      _ = x ^ (p - 1) := by rw [← pow_mul, h3]
      _ = 1 := ZMod.pow_card_sub_one_eq_one hx0
  refine hpow (eq_of_cast_eq (m := p) ?_ (by omega) ?_)
  · rw [powMod_eq _ _ _ _ he]
    exact Nat.mod_lt _ (by omega)
  · rw [powMod_eq _ _ _ _ he, ZMod.natCast_mod, Nat.cast_pow, Nat.cast_one]
    exact hseven

theorem seven_pow_ne_one : powMod P 256 7 ((P - 1) / 3) ≠ 1 := by decide +kernel

/-- No element of the field is a root of `x³ + 7` (41_curve_points.md R110). -/
theorem cube_add_seven_ne_zero_P (x : ZMod P) : x ^ 3 + 7 ≠ 0 :=
  have := fact_prime_P
  cube_add_seven_ne_zero (e := (P - 1) / 3) (by decide) (by decide) (by decide) (by decide) seven_pow_ne_one x

theorem y_ne_zero_of_onSecp {x y : Nat} (h : OnSecp x y) : y ≠ 0 := by
  rintro rfl
  rw [onSecp_iff_cast] at h
  exact cube_add_seven_ne_zero_P x (by simpa using h.symm)

/-! ## The formulas -/

/-- The formulas of R105 and R106 as equations in ZMod P. -/
theorem lineResult_iff (lam x1 y1 x2 x3 y3 : Nat) :
    LineResult lam x1 y1 x2 x3 y3 ↔
      lam < P ∧ x3 < P ∧ y3 < P ∧ (x3 : ZMod P) = lam ^ 2 - x1 - x2 ∧ (y3 : ZMod P) = lam * (x1 - x3) - y1 := by
  unfold LineResult
  refine and_congr_right fun _ => and_congr_right fun hx3 => and_congr_right fun _ => ?_
  rw [← ZMod.natCast_eq_natCast_iff', ← ZMod.natCast_eq_natCast_iff']
  push_cast [Nat.cast_sub hx3.le, ZMod.natCast_self]
  constructor
  · rintro ⟨hx, hy⟩
    exact ⟨by linear_combination hx, by linear_combination hy⟩
  · rintro ⟨hx, hy⟩
    exact ⟨by linear_combination hx, by linear_combination hy⟩

/-- A denominator in range times its inverse. -/
theorem cast_mul_fInv {d : Nat} (h0 : d ≠ 0) (hd : d < P) : (d : ZMod P) * (fInv d P : Nat) = 1 := by
  rw [← Nat.cast_mul, ← ZMod.natCast_mod, ← fMul, fMul_fInv P_prime P_lt h0 hd, Nat.cast_one]

theorem cast_ne_zero {a : Nat} (h0 : a ≠ 0) (ha : a < P) : (a : ZMod P) ≠ 0 := fun h =>
  h0 (eq_of_cast_eq ha P_pos (by simpa using h))

theorem two_ne_zero_P : (2 : ZMod P) ≠ 0 := by
  simpa using cast_ne_zero (a := 2) (by decide) (by decide)

/-- The slope of the tangent (41_curve_points.md R105). -/
def tangentSlope (x y : Nat) : Nat := fMul (fAdd (fMul 3 (fMul x x P) P) A P) (fInv (fMul 2 y P) P) P

/-- The slope of the chord (41_curve_points.md R106). -/
def chordSlope (x1 y1 x2 y2 : Nat) : Nat := fMul (fSub y2 y1 P) (fInv (fSub x2 x1 P) P) P

/-- Doubling an affine point with `y ≠ 0` (41_curve_points.md R105). -/
theorem dbl_affine {x y : Nat} (h0 : y ≠ 0) (hy : y < P) :
    ∃ lam x3 y3, dbl (.aff x y) = .aff x3 y3 ∧ LineResult lam x y x x3 y3 ∧
      (lam : ZMod P) * (2 * y) = 3 * (x : ZMod P) ^ 2 := by
  have := fact_prime_P
  have hd : fMul 2 y P ≠ 0 := fun h => by
    have h2 : ((fMul 2 y P : Nat) : ZMod P) = 0 := by rw [h, Nat.cast_zero]
    rw [cast_fMul] at h2
    exact mul_ne_zero two_ne_zero_P (cast_ne_zero h0 hy) (by exact_mod_cast h2)
  have hinv := cast_mul_fInv hd (fMul_lt P_pos 2 y)
  refine ⟨tangentSlope x y, _, _, by rw [dbl, if_neg h0, ← tangentSlope], ?_, ?_⟩
  · rw [lineResult_iff]
    refine ⟨fMul_lt P_pos _ _, fSub_lt P_pos _ _, fSub_lt P_pos _ _, ?_, ?_⟩
    · rw [cast_fSub P_pos, cast_fMul, cast_fMul]
      push_cast
      ring
    · rw [cast_fSub P_pos, cast_fMul, cast_fSub P_pos]
  · simp only [tangentSlope, cast_fMul, cast_fAdd, A, Nat.cast_zero, Nat.cast_ofNat] at hinv ⊢
    linear_combination (3 * (x : ZMod P) ^ 2) * hinv

/-- Adding affine points with different `x` (41_curve_points.md R106). -/
theorem add_affine {x1 y1 x2 y2 : Nat} (hx1 : x1 < P) (hx2 : x2 < P) (h : x1 ≠ x2) :
    ∃ lam x3 y3, add (.aff x1 y1) (.aff x2 y2) = .aff x3 y3 ∧ LineResult lam x1 y1 x2 x3 y3 ∧
      (lam : ZMod P) * (x2 - x1) = y2 - y1 := by
  have hd : fSub x2 x1 P ≠ 0 := fun h0 => by
    have h2 : ((fSub x2 x1 P : Nat) : ZMod P) = 0 := by rw [h0, Nat.cast_zero]
    rw [cast_fSub P_pos] at h2
    exact h (eq_of_cast_eq hx1 hx2 (sub_eq_zero.1 h2).symm)
  have hinv := cast_mul_fInv hd (fSub_lt P_pos x2 x1)
  refine ⟨chordSlope x1 y1 x2 y2, _, _, by rw [add, if_neg fun hc => h hc.1, if_neg h, ← chordSlope], ?_, ?_⟩
  · rw [lineResult_iff]
    refine ⟨fMul_lt P_pos _ _, fSub_lt P_pos _ _, fSub_lt P_pos _ _, ?_, ?_⟩
    · rw [cast_fSub P_pos, cast_fSub P_pos, cast_fMul, pow_two]
    · rw [cast_fSub P_pos, cast_fMul, cast_fSub P_pos]
  · simp only [chordSlope, cast_fMul, cast_fSub P_pos] at hinv ⊢
    linear_combination ((y2 : ZMod P) - y1) * hinv

@[simp] theorem add_inf (q : Point) : add q .inf = q := by cases q <;> rfl

@[simp] theorem inf_add (q : Point) : add .inf q = q := rfl

theorem add_same (x y : Nat) : add (.aff x y) (.aff x y) = dbl (.aff x y) := by simp [add]

theorem add_inverse {x y1 y2 : Nat} (h : y1 ≠ y2) : add (.aff x y1) (.aff x y2) = .inf := by simp [add, h]

theorem dbl_zero_y (x : Nat) : dbl (.aff x 0) = .inf := by simp [dbl]

theorem rangeOk_aff_iff (x y : Nat) : (Point.aff x y).rangeOk = true ↔ x < P ∧ y < P := by
  simp [Point.rangeOk, fieldOk]

theorem valid_aff_iff (x y : Nat) : (Point.aff x y).valid = true ↔ x < P ∧ y < P ∧ OnSecp x y := by
  simp only [Point.valid, Bool.and_eq_true, rangeOk_aff_iff, Point.curveOk, onCurve_iff, and_assoc]

theorem rangeOk_of_valid {q : Point} (h : q.valid = true) : q.rangeOk = true := by
  rw [Point.valid, Bool.and_eq_true] at h
  exact h.1

/-- Two results of the formulas with equal slopes are equal when one point is on the other's line. -/
theorem lineResult_unique {lam lam' x1 y1 x2 y2 x3 y3 x3' y3' : Nat} (h : LineResult lam x1 y1 x2 x3 y3)
    (h' : LineResult lam' x2 y2 x1 x3' y3') (hlam : (lam' : ZMod P) = lam)
    (hline : (lam : ZMod P) * (x2 - x1) = y2 - y1) : x3 = x3' ∧ y3 = y3' := by
  obtain ⟨_, hx3, hy3, ex, ey⟩ := (lineResult_iff ..).1 h
  obtain ⟨_, hx3', hy3', ex', ey'⟩ := (lineResult_iff ..).1 h'
  have hx : x3 = x3' := eq_of_cast_eq hx3 hx3' (by rw [ex, ex', hlam]; ring)
  refine ⟨hx, eq_of_cast_eq hy3 hy3' ?_⟩
  rw [ey, ey', hlam, ← hx]
  linear_combination -hline

/-- Points in range with different `x` add to the same point in either order. -/
theorem add_comm_of_x_ne {x1 y1 x2 y2 : Nat} (hx1 : x1 < P) (hx2 : x2 < P) (h : x1 ≠ x2) :
    add (.aff x1 y1) (.aff x2 y2) = add (.aff x2 y2) (.aff x1 y1) := by
  have := fact_prime_P
  obtain ⟨lam, x3, y3, hadd, hl, hs⟩ := add_affine (y1 := y1) (y2 := y2) hx1 hx2 h
  obtain ⟨lam', x3', y3', hadd', hl', hs'⟩ := add_affine (y1 := y2) (y2 := y1) hx2 hx1 h.symm
  have hd : (x2 : ZMod P) - x1 ≠ 0 := fun h0 => h (eq_of_cast_eq hx1 hx2 (sub_eq_zero.1 h0).symm)
  have hlam : (lam' : ZMod P) = lam := mul_right_cancel₀ hd (by linear_combination -hs' - hs)
  obtain ⟨rfl, rfl⟩ := lineResult_unique hl hl' hlam hs
  rw [hadd, hadd']

theorem add_comm_of_rangeOk {q r : Point} (hq : q.rangeOk = true) (hr : r.rangeOk = true) : add q r = add r q := by
  cases q with
  | inf => simp
  | aff x1 y1 =>
    cases r with
    | inf => simp
    | aff x2 y2 =>
      rw [rangeOk_aff_iff] at hq hr
      by_cases hx : x1 = x2
      · subst hx
        by_cases hy : y1 = y2
        · rw [hy]
        · rw [add_inverse hy, add_inverse (Ne.symm hy)]
      · exact add_comm_of_x_ne hq.1 hr.1 hx

theorem cast_neg_y (y : Nat) : ((fSub P y P : Nat) : ZMod P) = -y := by
  rw [cast_fSub P_pos, ZMod.natCast_self, zero_sub]

/-- Doubling commutes with negation (41_curve_points.md R107). -/
theorem dbl_neg_of_rangeOk {q : Point} (hq : q.rangeOk = true) : dbl q.neg = (dbl q).neg := by
  have := fact_prime_P
  cases q with
  | inf => rfl
  | aff x y =>
    rw [rangeOk_aff_iff] at hq
    by_cases h0 : y = 0
    · subst h0
      have hneg : fSub P 0 P = 0 := by decide
      rw [Point.neg, hneg, dbl_zero_y]
      rfl
    · have hlt : fSub P y P < P := fSub_lt P_pos P y
      have hne : fSub P y P ≠ 0 := fun h => cast_ne_zero h0 hq.2 (by
        rw [← neg_eq_zero, ← cast_neg_y, h, Nat.cast_zero])
      obtain ⟨lam, x3, y3, hd, hl, hs⟩ := dbl_affine (x := x) h0 hq.2
      obtain ⟨lam', x3', y3', hd', hl', hs'⟩ := dbl_affine (x := x) hne hlt
      obtain ⟨_, hx3, hy3, ex, ey⟩ := (lineResult_iff ..).1 hl
      obtain ⟨_, hx3', hy3', ex', ey'⟩ := (lineResult_iff ..).1 hl'
      rw [cast_neg_y] at hs' ey'
      have hlam : (lam' : ZMod P) = -lam :=
        mul_right_cancel₀ (mul_ne_zero two_ne_zero_P (cast_ne_zero h0 hq.2)) (by linear_combination hs - hs')
      have hx : x3' = x3 := eq_of_cast_eq hx3' hx3 (by rw [ex, ex', hlam]; ring)
      have hy : y3' = fSub P y3 P := eq_of_cast_eq hy3' (fSub_lt P_pos P y3) (by
        rw [ey', cast_neg_y, ey, hlam, hx]; ring)
      rw [Point.neg, hd', hd, Point.neg, hx, hy]

/-! ## The group law -/

@[simp] theorem pointOf_zero : pointOf 0 = .inf := rfl

@[simp] theorem pointOf_some {x y : ZMod P} (h : secp256k1.Nonsingular x y) :
    pointOf (.some x y h) = .aff x.val y.val := rfl

theorem equation_iff (x y : ZMod P) : secp256k1.Equation x y ↔ y ^ 2 = x ^ 3 + 7 := by
  rw [WeierstrassCurve.Affine.equation_iff]
  simp [secp256k1, A, B]

@[simp] theorem negY_eq (x y : ZMod P) : secp256k1.negY x y = -y := by
  simp [WeierstrassCurve.Affine.negY, secp256k1]

section
variable [Fact (Nat.Prime P)]

theorem y_ne_zero_of_equation {x y : ZMod P} (h : secp256k1.Equation x y) : y ≠ 0 := by
  rintro rfl
  rw [equation_iff] at h
  exact cube_add_seven_ne_zero_P x (by simpa using h.symm)

theorem y_ne_neg_of_equation {x y : ZMod P} (h : secp256k1.Equation x y) : y ≠ -y := fun hc =>
  mul_ne_zero two_ne_zero_P (y_ne_zero_of_equation h) (by linear_combination hc)

/-- Every point of the curve is nonsingular, its `y` not being 0. -/
theorem nonsingular_of_equation {x y : ZMod P} (h : secp256k1.Equation x y) : secp256k1.Nonsingular x y := by
  rw [WeierstrassCurve.Affine.nonsingular_iff]
  exact ⟨h, .inr (by simpa [secp256k1] using y_ne_neg_of_equation h)⟩

/-- The points that pass the checks are those of the group (41_curve_points.md R103). -/
theorem valid_iff_exists_pointOf (q : Point) : q.valid = true ↔ ∃ g, q = pointOf g := by
  cases q with
  | inf => exact ⟨fun _ => ⟨0, rfl⟩, fun _ => rfl⟩
  | aff x y =>
    rw [valid_aff_iff, onSecp_iff_cast]
    constructor
    · rintro ⟨hx, hy, h⟩
      have heq := (equation_iff (x : ZMod P) y).2 h
      exact ⟨.some x y (nonsingular_of_equation heq), by
        rw [pointOf_some, ZMod.val_natCast_of_lt hx, ZMod.val_natCast_of_lt hy]⟩
    · rintro ⟨_ | ⟨X, Y, h⟩, hg⟩
      · cases hg
      · cases hg
        rw [ZMod.natCast_zmod_val, ZMod.natCast_zmod_val]
        exact ⟨ZMod.val_lt X, ZMod.val_lt Y, (equation_iff X Y).1 h.1⟩

/-- The third point of a line with the slope of Mathlib's formulas. -/
theorem aff_of_lineResult {X1 Y1 X2 L : ZMod P} {lam x3 y3 : Nat} (h : LineResult lam X1.val Y1.val X2.val x3 y3)
    (hlam : (lam : ZMod P) = L)
    (hns : secp256k1.Nonsingular (secp256k1.addX X1 X2 L) (secp256k1.addY X1 X2 Y1 L)) :
    Point.aff x3 y3 = pointOf (.some _ _ hns) := by
  obtain ⟨_, hx3, hy3, ex, ey⟩ := (lineResult_iff ..).1 h
  simp only [ZMod.natCast_zmod_val, hlam] at ex ey
  have hX : (x3 : ZMod P) = secp256k1.addX X1 X2 L := by
    rw [ex, WeierstrassCurve.Affine.addX]
    simp [secp256k1]
  have hY : (y3 : ZMod P) = secp256k1.addY X1 X2 Y1 L := by
    rw [ey, hX, WeierstrassCurve.Affine.addY, WeierstrassCurve.Affine.negAddY, negY_eq]
    ring
  rw [pointOf_some, ← hX, ← hY, ZMod.val_natCast_of_lt hx3, ZMod.val_natCast_of_lt hy3]

theorem dbl_pointOf (g : secp256k1.Point) : dbl (pointOf g) = pointOf (g + g) := by
  rcases g with _ | ⟨x, y, h⟩
  · exact congrArg pointOf (add_zero (0 : secp256k1.Point)).symm
  · have hy : y ≠ secp256k1.negY x y := by rw [negY_eq]; exact y_ne_neg_of_equation h.1
    have h0 := y_ne_zero_of_equation h.1
    obtain ⟨lam, x3, y3, hd, hl, hs⟩ := dbl_affine (x := x.val) (mt (ZMod.val_eq_zero y).1 h0) (ZMod.val_lt y)
    simp only [ZMod.natCast_zmod_val] at hs
    have hlam : (lam : ZMod P) = secp256k1.slope x x y y := by
      have hden : y - -y ≠ 0 := by rw [sub_ne_zero]; exact y_ne_neg_of_equation h.1
      rw [WeierstrassCurve.Affine.slope_of_Y_ne rfl hy, negY_eq, eq_div_iff hden]
      simp only [secp256k1, A, Nat.cast_zero]
      linear_combination hs
    rw [WeierstrassCurve.Affine.Point.add_self_of_Y_ne hy, pointOf_some, hd]
    exact aff_of_lineResult hl hlam _

theorem add_pointOf (g h : secp256k1.Point) : add (pointOf g) (pointOf h) = pointOf (g + h) := by
  rcases g with _ | ⟨x1, y1, h1⟩
  · exact congrArg pointOf (zero_add h).symm
  rcases h with _ | ⟨x2, y2, h2⟩
  · exact (add_inf _).trans (congrArg pointOf (add_zero (WeierstrassCurve.Affine.Point.some x1 y1 h1)).symm)
  by_cases hx : x1 = x2
  · subst hx
    by_cases hy : y1 = y2
    · subst hy
      exact (add_same _ _).trans (dbl_pointOf (.some x1 y1 h1))
    · have hneg := (WeierstrassCurve.Affine.Y_eq_of_X_eq h1.1 h2.1 rfl).resolve_left hy
      rw [WeierstrassCurve.Affine.Point.add_of_Y_eq rfl hneg]
      exact add_inverse fun hc => hy (ZMod.val_injective P hc)
  · obtain ⟨lam, x3, y3, hd, hl, hs⟩ := add_affine (y1 := y1.val) (y2 := y2.val) (ZMod.val_lt x1) (ZMod.val_lt x2)
      fun hc => hx (ZMod.val_injective P hc)
    simp only [ZMod.natCast_zmod_val] at hs
    have hlam : (lam : ZMod P) = secp256k1.slope x1 x2 y1 y2 := by
      rw [WeierstrassCurve.Affine.slope_of_X_ne hx, eq_div_iff (sub_ne_zero.2 hx)]
      linear_combination -hs
    rw [WeierstrassCurve.Affine.Point.add_of_X_ne hx, pointOf_some, pointOf_some, hd]
    exact aff_of_lineResult hl hlam _

theorem neg_pointOf (g : secp256k1.Point) : (pointOf g).neg = pointOf (-g) := by
  rcases g with _ | ⟨x, y, h⟩
  · rfl
  · have hy : fSub P y.val P = (secp256k1.negY x y).val := by
      refine eq_of_cast_eq (fSub_lt P_pos _ _) (ZMod.val_lt _) ?_
      rw [cast_neg_y, ZMod.natCast_zmod_val, ZMod.natCast_zmod_val, negY_eq]
    rw [WeierstrassCurve.Affine.Point.neg_some, pointOf_some, pointOf_some, Point.neg, hy]

end

/-! ## Closure (41_curve_points.md R109) -/

theorem dbl_valid {q : Point} (hq : q.valid = true) : (dbl q).valid = true := by
  have := fact_prime_P
  obtain ⟨g, rfl⟩ := (valid_iff_exists_pointOf q).1 hq
  rw [dbl_pointOf]
  exact (valid_iff_exists_pointOf _).2 ⟨_, rfl⟩

theorem add_valid {q r : Point} (hq : q.valid = true) (hr : r.valid = true) : (add q r).valid = true := by
  have := fact_prime_P
  obtain ⟨g, rfl⟩ := (valid_iff_exists_pointOf q).1 hq
  obtain ⟨h, rfl⟩ := (valid_iff_exists_pointOf r).1 hr
  rw [add_pointOf]
  exact (valid_iff_exists_pointOf _).2 ⟨_, rfl⟩

end Sys2Proof.CurveRules

open Sys2Proof Sys2Proof.Machine Sys2Proof.CurveRules

/-- Settles O21 (41_curve_points.md R110): `-7` is no cube modulo P. -/
theorem noCurvePointHasZeroY : Obligations.NoCurvePointHasZeroY := by
  unfold Obligations.NoCurvePointHasZeroY
  exact fun x => Bool.eq_false_iff.2 fun h => y_ne_zero_of_onSecp ((onCurve_iff x 0).1 h) rfl

/-- Settles O22 (41_curve_points.md R109): the points that pass the checks are a group. -/
theorem pointFunctionsStayOnTheCurve : Obligations.PointFunctionsStayOnTheCurve := by
  unfold Obligations.PointFunctionsStayOnTheCurve
  exact fun q r hq hr => ⟨dbl_valid hq, add_valid hq hr⟩

/-- Settles O23 (41_curve_points.md R107, R108), by the formulas, the operands being anywhere in range. -/
theorem pointAdditionCommutes : Obligations.PointAdditionCommutes := by
  unfold Obligations.PointAdditionCommutes
  exact ⟨fun q r hq hr => add_comm_of_rangeOk hq hr, fun q hq => dbl_neg_of_rangeOk hq⟩

/-- Settles O24 (41_curve_points.md R105, R106; 42_scalar_mult.md R126): the formulas are those of Mathlib's group law. -/
theorem pointFunctionsAreTheGroupLaw : Obligations.PointFunctionsAreTheGroupLaw := by
  unfold Obligations.PointFunctionsAreTheGroupLaw
  intro _
  exact ⟨valid_iff_exists_pointOf, dbl_pointOf, add_pointOf, neg_pointOf⟩

end

section
/-! What the step of each command does: one inversion lemma with the guards of every outcome (60_exceptions.md R134 to
R137), and that the step reads the snapshot and the working registers only (10_state.md R37). -/

namespace Sys2Proof.CommandSteps

open Sys2Proof.Machine Sys2Proof.Laws Sys2Proof.Config Sys2Proof.FieldRules Sys2Proof.CurveRules

/-! ## The completions as the statements write them -/

theorem completeOk_eq_afterSuccess (s : State) (rx ry : Wide) (rinf oncurve : Bool) :
    completeOk s rx ry rinf oncurve = AfterSuccess s rx.toNat ry.toNat rinf oncurve := by
  simp [completeOk, AfterSuccess]

theorem completePoint_inf (s : State) : completePoint s .inf = AfterSuccess s 0 0 true false := rfl

theorem completePoint_aff (s : State) (x y : Nat) : completePoint s (.aff x y) = AfterSuccess s x y false false := rfl

/-! ## The point checks -/

section
variable {s : State} {qs : List Point} {run : State → State}

theorem withPoints_of_valid (h : ∀ q ∈ qs, q.valid = true) : withPoints s qs run = .next (run s) := by
  rw [withPoints, (checkPoints_none_iff qs).2 h]

/-- Every range check comes before every curve check (60_exceptions.md R137). -/
theorem withPoints_of_not_range {q : Point} (hq : q ∈ qs) (h : q.rangeOk = false) :
    withPoints s qs run = .next (AfterError s .range) := by
  have hall : ¬ qs.all Point.rangeOk = true := fun hc => by simp [List.all_eq_true.1 hc q hq] at h
  rw [withPoints, checkPoints, if_neg hall]
  rfl

theorem withPoints_of_not_curve (hr : ∀ q ∈ qs, q.rangeOk = true) {q : Point} (hq : q ∈ qs) (h : q.curveOk = false) :
    withPoints s qs run = .next (AfterError s .notOnCurve) := by
  have hall : ¬ qs.all Point.curveOk = true := fun hc => by simp [List.all_eq_true.1 hc q hq] at h
  rw [withPoints, checkPoints, if_pos (List.all_eq_true.2 hr), if_neg hall]
  rfl

end

theorem basePoint_valid : basePoint.valid = true := by decide +kernel

/-! ## What the step of each command can do -/

/-- The error codes of each command (60_exceptions.md R136). -/
def CanRaise (i : Instr) (code : ErrCode) : Prop :=
  match i with
  | .faddP | .fsubP | .fmulP | .faddN | .fsubN | .fmulN => code = .range
  | .fredP | .fredN => False
  | .finvP | .finvN => code = .range ∨ code = .noInverse
  | .pchk => code = .range
  | .pdbl | .padd => code = .range ∨ code = .notOnCurve
  | .pmul => code = .scalar ∨ code = .range ∨ code = .notOnCurve
  | .pmulg => code = .scalar

theorem CanRaise.ne_none {i : Instr} {code : ErrCode} (h : CanRaise i code) : code ≠ .none := by
  rintro rfl
  cases i <;> simp [CanRaise] at h

/-- The commands of the scalar engine. -/
abbrev IsScalar (i : Instr) : Prop := i = .pmul ∨ i = .pmulg

/-- The field commands, OP 1 to 5 (30_encoding.md R76). -/
abbrev IsField (i : Instr) : Prop := (opOf i).toNat ≤ 5

/-- Every outcome of the step of a command, with what is known where it happens. -/
inductive ExecEffect (s : State) : Instr → State → Prop
  | field {i : Instr} (m c : Nat) : IsField i → m ∈ [P, N] → c < m → ExecEffect s i (completeField s c)
  | checked (v : Bool) : ExecEffect s .pchk (completeCheck s v)
  | doubled : s.snap.pt1.valid = true → ExecEffect s .pdbl (completePoint s (dbl s.snap.pt1))
  | added : s.snap.pt1.valid = true → s.snap.pt2.valid = true →
      ExecEffect s .padd (completePoint s (Machine.add s.snap.pt1 s.snap.pt2))
  | error {i : Instr} (code : ErrCode) : CanRaise i code → ExecEffect s i (raiseError s code)
  | start {i : Instr} (base : Point) : IsScalar i → s.pm.started = false → scalarOk s.snap.k = true →
      base.valid = true → ExecEffect s i (pmInit s base)
  | double {i : Instr} : IsScalar i → s.pm.started = true → s.pm.idx ≠ idxOver → s.pm.phase = .dbl →
      ExecEffect s i (pmDouble s)
  | add {i : Instr} : IsScalar i → s.pm.started = true → s.pm.idx ≠ idxOver → s.pm.phase = .add →
      ExecEffect s i (pmAdd s)
  | finish {i : Instr} : IsScalar i → s.pm.started = true → s.pm.idx = idxOver → ExecEffect s i (pmFinish s)

section
variable {i : Instr} {s t : State}

theorem fieldBinary_exec {f : Nat → Nat → Nat → Nat} {m : Nat} (hop : IsField i) (hm : m ∈ [P, N])
    (hf : ∀ a b, f a b m < m) (hi : CanRaise i .range) (h : fieldBinary f m s = .next t) : ExecEffect s i t := by
  obtain ⟨_, _, h'⟩ | ⟨_, h'⟩ := fieldBinary_cases f m s <;> cases h'.symm.trans h
  · exact .field m _ hop hm (hf _ _)
  · exact .error _ hi

theorem fieldReduce_exec {m : Nat} (hop : IsField i) (hm : m ∈ [P, N]) (h : fieldReduce m s = .next t) : ExecEffect s i t := by
  cases h
  exact .field m _ hop hm (fRed_lt (modulus_prime m hm).pos _)

theorem fieldInverse_exec {m : Nat} (hop : IsField i) (hm : m ∈ [P, N]) (hr : CanRaise i .range)
    (hn : CanRaise i .noInverse) (h : fieldInverse m s = .next t) : ExecEffect s i t := by
  obtain ⟨_, _, h'⟩ | ⟨_, _, h'⟩ | ⟨_, h'⟩ := fieldInverse_cases m s <;> cases h'.symm.trans h
  · exact .field m _ hop hm (fInv_lt (modulus_prime m hm).pos _)
  · exact .error _ hn
  · exact .error _ hr

theorem execPchk_exec (h : execPchk s = .next t) : ExecEffect s .pchk t := by
  unfold execPchk at h
  split at h <;> cases h
  · exact .checked _
  · exact .error _ rfl

theorem execPdbl_exec (h : execPdbl s = .next t) : ExecEffect s .pdbl t := by
  obtain ⟨hc, h'⟩ | ⟨c, hc, h'⟩ := withPoints_cases s [s.snap.pt1] fun s => completePoint s (dbl s.snap.pt1) <;>
    cases h'.symm.trans h
  · exact .doubled ((checkPoints_none_iff _).1 hc _ (by simp))
  · exact .error c (checkPoints_some hc)

theorem execPadd_exec (h : execPadd s = .next t) : ExecEffect s .padd t := by
  obtain ⟨hc, h'⟩ | ⟨c, hc, h'⟩ := withPoints_cases s [s.snap.pt1, s.snap.pt2]
      fun s => completePoint s (Machine.add s.snap.pt1 s.snap.pt2) <;>
    cases h'.symm.trans h
  · exact .added ((checkPoints_none_iff _).1 hc _ (by simp)) ((checkPoints_none_iff _).1 hc _ (by simp))
  · exact .error c (checkPoints_some hc)

theorem pmStep_exec (hi : IsScalar i) (hst : s.pm.started = true) : ExecEffect s i (pmStep s) := by
  obtain ⟨hidx, h⟩ | ⟨hidx, hph, h⟩ | ⟨hidx, hph, h⟩ := pmStep_cases s <;> rw [h]
  · exact .finish hi hst hidx
  · exact .double hi hst hidx hph
  · exact .add hi hst hidx hph

/-- The step of a scalar command, `qs` being the points it checks and `base` one of them or G. -/
theorem scalar_exec {base : Point} {qs : List Point} (hi : IsScalar i) (hs : CanRaise i .scalar)
    (hb : checkPoints qs = none → base.valid = true) (hc : ∀ c, checkPoints qs = some c → CanRaise i c)
    (h : (if s.pm.started then .next (pmStep s) else pmStart s base qs) = Host.Outcome.next t) : ExecEffect s i t := by
  split at h
  · rename_i hst
    cases h
    exact pmStep_exec hi hst
  · rename_i hst
    obtain ⟨_, h'⟩ | ⟨hk, hq, h'⟩ | ⟨c, _, hq, h'⟩ := pmStart_cases s base qs <;> cases h'.symm.trans h
    · exact .error _ hs
    · exact .start base hi (Bool.eq_false_iff.2 hst) hk (hb hq)
    · exact .error c (hc c hq)

end

/-- Every step of a command is one of these. -/
theorem exec_inv {i : Instr} {s t : State} (h : exec i s = .next t) : ExecEffect s i t := by
  have hP : P ∈ [P, N] := by simp
  have hN : N ∈ [P, N] := by simp
  have hm : ∀ m ∈ [P, N], 0 < m := fun m hmem => (modulus_prime m hmem).pos
  cases i with
  | faddP => exact fieldBinary_exec (by decide) hP (fAdd_lt (hm P hP)) rfl h
  | fsubP => exact fieldBinary_exec (by decide) hP (fSub_lt (hm P hP)) rfl h
  | fmulP => exact fieldBinary_exec (by decide) hP (fMul_lt (hm P hP)) rfl h
  | faddN => exact fieldBinary_exec (by decide) hN (fAdd_lt (hm N hN)) rfl h
  | fsubN => exact fieldBinary_exec (by decide) hN (fSub_lt (hm N hN)) rfl h
  | fmulN => exact fieldBinary_exec (by decide) hN (fMul_lt (hm N hN)) rfl h
  | fredP => exact fieldReduce_exec (by decide) hP h
  | fredN => exact fieldReduce_exec (by decide) hN h
  | finvP => exact fieldInverse_exec (by decide) hP (.inl rfl) (.inr rfl) h
  | finvN => exact fieldInverse_exec (by decide) hN (.inl rfl) (.inr rfl) h
  | pchk => exact execPchk_exec h
  | pdbl => exact execPdbl_exec h
  | padd => exact execPadd_exec h
  | pmul =>
    exact scalar_exec (.inl rfl) (.inl rfl) (fun hc => (checkPoints_none_iff _).1 hc _ (by simp))
      (fun c hc => .inr (checkPoints_some hc)) h
  | pmulg => exact scalar_exec (.inr rfl) rfl (fun _ => basePoint_valid) (fun c hc => by simp [checkPoints] at hc) h

theorem pmInit_eq (s : State) (base : Point) : pmInit s base = { s with pm := (pmInit s base).pm } := rfl

theorem pmAdd_eq (s : State) : pmAdd s = { s with pm := (pmAdd s).pm } := rfl

theorem pmDouble_eq (s : State) : pmDouble s = { s with pm := (pmDouble s).pm } := by
  unfold pmDouble
  split <;> rfl

/-- The three kinds of outcome, as 60_exceptions.md R134 and R135 write them: micro-step, success, error. -/
theorem ExecEffect.outcome {i : Instr} {s t : State} (h : ExecEffect s i t) :
    (IsScalar i ∧ ∃ pm, t = { s with pm := pm }) ∨ (∃ rx ry rinf oncurve, t = AfterSuccess s rx ry rinf oncurve) ∨
      ∃ code, CanRaise i code ∧ t = AfterError s code := by
  have hpoint : ∀ q, ∃ rx ry rinf oncurve, completePoint s q = AfterSuccess s rx ry rinf oncurve := fun q =>
    ⟨_, _, _, _, (completePoint_eq s q).trans (completeOk_eq_afterSuccess ..)⟩
  cases h with
  | field m c _ _ _ => exact .inr (.inl ⟨c, 0, false, false, rfl⟩)
  | checked v => exact .inr (.inl ⟨_, _, _, _, completeOk_eq_afterSuccess ..⟩)
  | doubled _ => exact .inr (.inl (hpoint _))
  | added _ _ => exact .inr (.inl (hpoint _))
  | error code hc => exact .inr (.inr ⟨code, hc, rfl⟩)
  | start base hi _ _ _ => exact .inl ⟨hi, _, pmInit_eq s base⟩
  | double hi _ _ _ => exact .inl ⟨hi, _, pmDouble_eq s⟩
  | add hi _ _ _ => exact .inl ⟨hi, _, pmAdd_eq s⟩
  | finish _ _ _ => exact .inr (.inl (hpoint _))

/-- From a state with ERR = 0, an error completion carries a code the command can raise. -/
theorem canRaise_of_afterError {i : Instr} {s : State} {code : ErrCode} (he : s.err = false)
    (h : exec i s = .next (AfterError s code)) : CanRaise i code := by
  obtain ⟨_, pm, ht⟩ | ⟨_, _, _, _, ht⟩ | ⟨c, hc, ht⟩ := (exec_inv h).outcome
  · have herr : true = s.err := congrArg State.err ht
    simp [he] at herr
  · have herr : true = s.err := congrArg State.err ht
    simp [he] at herr
  · have hcode : code = c := congrArg State.errcode ht
    exact hcode ▸ hc

/-! ## The step reads the snapshot and the working registers only -/

/-- Two steps that answer, and do the same to their states: a change of the working registers or a completion. -/
inductive SameEffect (s₁ s₂ : State) : Result → Result → Prop
  | working (pm : PmRegs) : SameEffect s₁ s₂ (.next { s₁ with pm := pm }) (.next { s₂ with pm := pm })
  | success (rx ry : Wide) (rinf oncurve : Bool) :
      SameEffect s₁ s₂ (.next (completeOk s₁ rx ry rinf oncurve)) (.next (completeOk s₂ rx ry rinf oncurve))
  | error (code : ErrCode) : SameEffect s₁ s₂ (.next (raiseError s₁ code)) (.next (raiseError s₂ code))

theorem SameEffect.of_working {s₁ s₂ u₁ u₂ : State} (h₁ : u₁ = { s₁ with pm := u₁.pm })
    (h₂ : u₂ = { s₂ with pm := u₂.pm }) (hpm : u₁.pm = u₂.pm) : SameEffect s₁ s₂ (.next u₁) (.next u₂) := by
  rw [h₁, h₂, hpm]
  exact .working _

theorem SameEffect.point (s₁ s₂ : State) (q : Point) :
    SameEffect s₁ s₂ (.next (completePoint s₁ q)) (.next (completePoint s₂ q)) := by
  rw [completePoint_eq, completePoint_eq]
  exact .success ..

section
variable {s₁ s₂ : State} (hsnap : s₁.snap = s₂.snap) (hpm : s₁.pm = s₂.pm)

include hsnap in
theorem fieldBinary_same (f : Nat → Nat → Nat → Nat) (m : Nat) :
    SameEffect s₁ s₂ (fieldBinary f m s₁) (fieldBinary f m s₂) := by
  unfold fieldBinary
  rw [hsnap]
  split
  · exact .success ..
  · exact .error _

include hsnap in
theorem fieldReduce_same (m : Nat) : SameEffect s₁ s₂ (fieldReduce m s₁) (fieldReduce m s₂) := by
  unfold fieldReduce
  rw [hsnap]
  exact .success ..

include hsnap in
theorem fieldInverse_same (m : Nat) : SameEffect s₁ s₂ (fieldInverse m s₁) (fieldInverse m s₂) := by
  unfold fieldInverse
  rw [hsnap]
  split
  · split
    · exact .success ..
    · exact .error _
  · exact .error _

include hsnap in
theorem execPchk_same : SameEffect s₁ s₂ (execPchk s₁) (execPchk s₂) := by
  unfold execPchk
  rw [hsnap]
  split
  · exact .success ..
  · exact .error _

theorem withPoints_same {qs : List Point} {f₁ f₂ : State → State}
    (h : SameEffect s₁ s₂ (.next (f₁ s₁)) (.next (f₂ s₂))) :
    SameEffect s₁ s₂ (withPoints s₁ qs f₁) (withPoints s₂ qs f₂) := by
  unfold withPoints
  split
  · exact .error _
  · exact h

include hsnap in
theorem pmStart_same (base : Point) (qs : List Point) :
    SameEffect s₁ s₂ (pmStart s₁ base qs) (pmStart s₂ base qs) := by
  unfold pmStart
  rw [hsnap]
  split
  · exact withPoints_same (.of_working (pmInit_eq s₁ base) (pmInit_eq s₂ base) (by simp [hsnap]))
  · exact .error _

include hsnap hpm in
theorem pmDouble_same : SameEffect s₁ s₂ (.next (pmDouble s₁)) (.next (pmDouble s₂)) := by
  refine .of_working (pmDouble_eq s₁) (pmDouble_eq s₂) ?_
  unfold pmDouble
  rw [hsnap, hpm]
  split <;> rfl

include hpm in
theorem pmAdd_same : SameEffect s₁ s₂ (.next (pmAdd s₁)) (.next (pmAdd s₂)) :=
  .of_working (pmAdd_eq s₁) (pmAdd_eq s₂) (by simp [hpm])

include hsnap hpm in
theorem pmStep_same : SameEffect s₁ s₂ (.next (pmStep s₁)) (.next (pmStep s₂)) := by
  unfold pmStep pmFinish
  rw [hpm]
  split
  · exact .point s₁ s₂ _
  · split
    · exact pmDouble_same hsnap hpm
    · exact pmAdd_same hpm

include hsnap hpm in
theorem scalar_same (base : Point) (qs : List Point) :
    SameEffect s₁ s₂ (if s₁.pm.started then .next (pmStep s₁) else pmStart s₁ base qs)
      (if s₂.pm.started then .next (pmStep s₂) else pmStart s₂ base qs) := by
  rw [hpm]
  split
  · exact pmStep_same hsnap hpm
  · exact pmStart_same hsnap base qs

include hsnap hpm in
/-- The step of a command does the same in two states with the same snapshot and working registers. -/
theorem exec_same (i : Instr) : SameEffect s₁ s₂ (exec i s₁) (exec i s₂) := by
  cases i with
  | faddP | fsubP | fmulP | faddN | fsubN | fmulN => exact fieldBinary_same hsnap _ _
  | fredP | fredN => exact fieldReduce_same hsnap _
  | finvP | finvN => exact fieldInverse_same hsnap _
  | pchk => exact execPchk_same hsnap
  | pdbl =>
    simp only [exec, execPdbl, hsnap]
    exact withPoints_same (by rw [hsnap]; exact .point s₁ s₂ _)
  | padd =>
    simp only [exec, execPadd, hsnap]
    exact withPoints_same (by rw [hsnap]; exact .point s₁ s₂ _)
  | pmul =>
    simp only [exec, execPmul, hsnap]
    exact scalar_same hsnap hpm _ _
  | pmulg => exact scalar_same hsnap hpm _ _

end

/-- The two outcomes, written out with their frames. -/
theorem SameEffect.outcome {s₁ s₂ : State} {r₁ r₂ : Result} (h : SameEffect s₁ s₂ r₁ r₂) (hpm : s₁.pm = s₂.pm)
    (heng : s₁.eng = s₂.eng) :
    ∃ t₁ t₂, r₁ = .next t₁ ∧ r₂ = .next t₂ ∧ t₁.pm = t₂.pm ∧ t₁.eng = t₂.eng ∧
      ((t₁ = { s₁ with pm := t₁.pm } ∧ t₂ = { s₂ with pm := t₂.pm }) ∨
        (∃ rx ry rinf oncurve, t₁ = AfterSuccess s₁ rx ry rinf oncurve ∧ t₂ = AfterSuccess s₂ rx ry rinf oncurve) ∨
        ∃ code, t₁ = AfterError s₁ code ∧ t₂ = AfterError s₂ code) := by
  cases h with
  | working pm => exact ⟨_, _, rfl, rfl, rfl, heng, .inl ⟨rfl, rfl⟩⟩
  | success rx ry rinf oncurve =>
    exact ⟨_, _, rfl, rfl, hpm, rfl, .inr (.inl ⟨rx.toNat, ry.toNat, rinf, oncurve, completeOk_eq_afterSuccess ..,
      completeOk_eq_afterSuccess ..⟩)⟩
  | error code => exact ⟨_, _, rfl, rfl, hpm, rfl, .inr (.inr ⟨code, rfl, rfl⟩)⟩

/-- Every command's step answers a next state (60_exceptions.md R131). -/
theorem exec_answers (i : Instr) (s : State) : ∃ t, exec i s = .next t := by
  have h := exec_same (s₁ := s) (s₂ := s) rfl rfl i
  generalize exec i s = r at h
  cases h <;> exact ⟨_, rfl⟩

/-! ## An engine step -/

/-- The engine step of a command in progress is the command's step (30_encoding.md R74). -/
theorem engineStep_running {s : State} {i : Instr} (h : Running s i) : engineStep s = exec i s := by
  obtain ⟨hr, hb, hc⟩ := h
  simp [engineStep, hr, hb, hc]

/-- The engine step of an illegal word is its error completion (30_encoding.md R78). -/
theorem engineStep_illegal {s : State} {why : Illegal} (hr : s.inReset = false) (hb : s.busy = true)
    (hc : snapCommand s = .illegal why) : engineStep s = .next (AfterError s .illegalCmd) := by
  simp only [engineStep, hr, hb, hc]
  rfl

/-- There is no engine step while ENG is IDLE or reset is asserted (10_state.md R20). -/
theorem engineStep_still {s : State} (h : s.inReset = true ∨ s.busy = false) : engineStep s = .next s := by
  rw [engineStep, if_pos (by simpa using h)]

/-! ## A step of the machine by its turn (20_memory.md R58) -/

theorem step_of_nil {s : State} (h : s.turns = []) : step s = defaultStep s := by
  simp only [step, machineStep, h]

theorem step_of_cons {s : State} {t : Turn} {rest : List Turn} (h : s.turns = t :: rest) :
    step s = runTurn t (setTurns s rest) := by
  simp only [step, machineStep, h]

theorem defaultStep_busy {s : State} (hr : s.inReset = false) (hb : s.busy = true) : defaultStep s = engineStep s := by
  simp [defaultStep, hr, hb]

end Sys2Proof.CommandSteps

open Sys2Proof Sys2Proof.Machine Sys2Proof.Laws Sys2Proof.CommandWords Sys2Proof.CommandSteps

/-- Settles O8 (60_exceptions.md R131, R134, R135), from the inversion of a command's step. -/
theorem everyCommandStepIsMicroStepOrCompletion : Obligations.EveryCommandStepIsMicroStepOrCompletion := by
  unfold Obligations.EveryCommandStepIsMicroStepOrCompletion
  intro i s
  obtain ⟨t, h⟩ := exec_answers i s
  exact ⟨t, h, (exec_inv h).outcome.imp_right (Or.imp_right fun ⟨code, hc, ht⟩ => ⟨code, hc.ne_none, ht⟩)⟩

/-- Settles O9 (60_exceptions.md R136): ERR tells an error completion from every other outcome. -/
theorem errorCodesOfEachCommand : Obligations.ErrorCodesOfEachCommand := by
  unfold Obligations.ErrorCodesOfEachCommand
  refine ⟨fun i s code he h => ?_, rfl⟩
  have hc := canRaise_of_afterError he h
  cases i <;> exact hc

/-- Settles O53 (10_state.md R37; 70_reset_and_hazards.md R159). -/
theorem hostRegistersDoNotAffectTheRunningCommand : Obligations.HostRegistersDoNotAffectTheRunningCommand := by
  unfold Obligations.HostRegistersDoNotAffectTheRunningCommand
  intro s₁ s₂ hsnap hpm heng hreset
  refine SameEffect.outcome ?_ hpm heng
  have hbusy : s₁.busy = s₂.busy := by rw [State.busy, heng, ← State.busy]
  have hcmd : snapCommand s₁ = snapCommand s₂ := by rw [snapCommand, hsnap, ← snapCommand]
  unfold engineStep
  rw [hreset, hbusy, hcmd]
  split
  · exact .of_working rfl rfl hpm
  · split
    · exact exec_same hsnap hpm _
    · exact .error _

/-- Settles O4 (30_encoding.md R74; 10_state.md R20): the turn at the head of the schedule, or the order without one. -/
theorem stepRunsDecodedCommand : Obligations.StepRunsDecodedCommand := by
  unfold Obligations.StepRunsDecodedCommand
  refine ⟨fun s i h => ⟨fun hn => ?_, fun rest hc => ?_⟩, fun s why hr hb hw => ⟨fun hn => ?_, fun rest hc => ?_⟩,
    fun s rest => ⟨fun hc hstill => ?_, fun a hc => step_of_cons hc, fun hc => step_of_cons hc,
      fun hc => step_of_cons hc⟩, fun s hn => ⟨fun hr => ?_, fun hr hb => ?_⟩⟩
  · rw [step_of_nil hn, defaultStep_busy h.released h.busy, engineStep_running h]
  · rw [step_of_cons hc]
    exact engineStep_running ⟨h.released, h.busy, h.command⟩
  · rw [step_of_nil hn, defaultStep_busy hr hb, engineStep_illegal hr hb hw]
  · rw [step_of_cons hc]
    exact engineStep_illegal hr hb hw
  · rw [step_of_cons hc]
    exact engineStep_still hstill
  · simp [step_of_nil hn, defaultStep, hr]
  · simp [step_of_nil hn, defaultStep, hr, hb]

/-- Settles O5 (60_exceptions.md R132): the placed word is the snapshot's, and the engine's turn is next. -/
theorem fetchWordRunsCommand : Obligations.FetchWordRunsCommand := by
  unfold Obligations.FetchWordRunsCommand
  intro s i
  have hword : tableWord 32 (encode i).toNat = encode i := by
    rw [tableWord, Nat.mod_eq_of_lt (encode i).isLt, BitVec.ofNat_toNat, BitVec.setWidth_eq]
  have hrun : Running (setReset (accept s (encode i)) false) i := ⟨rfl, by simp, by simp⟩
  rw [State.withFetchWord, placeCommand, hword, step_of_cons rfl]
  exact engineStep_running hrun

end

section
/-! The point commands and the start of the scalar commands (41_curve_points.md R103 to R108; 42_scalar_mult.md R117 to
R122): the checks on a point operand, their order, and the results as the statements write them out. -/

namespace Sys2Proof.PointCommands

open Sys2Proof.Machine Sys2Proof.Laws Sys2Proof.Config Sys2Proof.FieldRules Sys2Proof.CurveRules Sys2Proof.CommandSteps

/-! ## A point operand (30_encoding.md R83) -/

section
variable {inf : Bool} {x y : Wide}

theorem pointOperand_of_inf (h : inf = true) : pointOperand inf x y = .inf := by rw [pointOperand, if_pos h]

theorem pointOperand_of_aff (h : inf = false) : pointOperand inf x y = .aff x.toNat y.toNat := by
  simp [pointOperand, h]

theorem pointOperand_rangeOk (h : inf = true ∨ (x.toNat < P ∧ y.toNat < P)) :
    (pointOperand inf x y).rangeOk = true := by
  cases inf with
  | true => rfl
  | false => exact (rangeOk_aff_iff _ _).2 (h.resolve_left (by decide))

theorem pointOperand_not_range (hi : inf = false) (h : P ≤ x.toNat ∨ P ≤ y.toNat) :
    (pointOperand inf x y).rangeOk = false := by
  rw [pointOperand_of_aff hi, ← Bool.not_eq_true, rangeOk_aff_iff]
  omega

theorem pointOperand_not_curve (hi : inf = false) (h : ¬ OnSecp x.toNat y.toNat) :
    (pointOperand inf x y).curveOk = false := by
  rw [pointOperand_of_aff hi, ← Bool.not_eq_true, Point.curveOk, onCurve_iff]
  exact h

theorem pointOperand_valid (h : inf = true ∨ (x.toNat < P ∧ y.toNat < P ∧ OnSecp x.toNat y.toNat)) :
    (pointOperand inf x y).valid = true := by
  cases inf with
  | true => rfl
  | false => exact (valid_aff_iff _ _).2 (h.resolve_left (by decide))

end

/-! ## The errors of PDBL, PADD and PMUL (60_exceptions.md R137) -/

section
variable {s : State}

theorem exec_pdbl (s : State) :
    exec .pdbl s = withPoints s [s.snap.pt1] fun s => completePoint s (dbl s.snap.pt1) := rfl

theorem exec_padd (s : State) :
    exec .padd s = withPoints s [s.snap.pt1, s.snap.pt2] fun s => completePoint s (add s.snap.pt1 s.snap.pt2) := rfl

theorem pdbl_of_not_range (hi : s.snap.inf1 = false) (h : P ≤ opA s ∨ P ≤ opB s) :
    exec .pdbl s = .next (AfterError s .range) := by
  rw [exec_pdbl]
  exact withPoints_of_not_range (List.mem_singleton_self _) (pointOperand_not_range hi h)

theorem pdbl_of_not_curve (hi : s.snap.inf1 = false) (ha : opA s < P) (hb : opB s < P)
    (h : ¬ OnSecp (opA s) (opB s)) : exec .pdbl s = .next (AfterError s .notOnCurve) := by
  rw [exec_pdbl]
  exact withPoints_of_not_curve (List.forall_mem_singleton.2 (pointOperand_rangeOk (.inr ⟨ha, hb⟩)))
    (List.mem_singleton_self _) (pointOperand_not_curve hi h)

theorem padd_of_not_range
    (h : (s.snap.inf1 = false ∧ (P ≤ opA s ∨ P ≤ opB s)) ∨ (s.snap.inf2 = false ∧ (P ≤ opC s ∨ P ≤ opD s))) :
    exec .padd s = .next (AfterError s .range) := by
  rw [exec_padd]
  obtain ⟨hi, hr⟩ | ⟨hi, hr⟩ := h
  · exact withPoints_of_not_range (q := s.snap.pt1) (by simp) (pointOperand_not_range hi hr)
  · exact withPoints_of_not_range (q := s.snap.pt2) (by simp) (pointOperand_not_range hi hr)

theorem padd_of_not_curve (h1 : s.snap.inf1 = true ∨ (opA s < P ∧ opB s < P))
    (h2 : s.snap.inf2 = true ∨ (opC s < P ∧ opD s < P))
    (h : (s.snap.inf1 = false ∧ ¬ OnSecp (opA s) (opB s)) ∨ (s.snap.inf2 = false ∧ ¬ OnSecp (opC s) (opD s))) :
    exec .padd s = .next (AfterError s .notOnCurve) := by
  rw [exec_padd]
  have hr : ∀ q ∈ [s.snap.pt1, s.snap.pt2], q.rangeOk = true :=
    forall_mem_pair (pointOperand_rangeOk h1) (pointOperand_rangeOk h2)
  obtain ⟨hi, hc⟩ | ⟨hi, hc⟩ := h
  · exact withPoints_of_not_curve hr (q := s.snap.pt1) (by simp) (pointOperand_not_curve hi hc)
  · exact withPoints_of_not_curve hr (q := s.snap.pt2) (by simp) (pointOperand_not_curve hi hc)

theorem scalarOk_iff (k : Wide) : scalarOk k = true ↔ 1 ≤ k.toNat ∧ k.toNat < N := by
  simp [scalarOk, Nat.one_le_iff_ne_zero]

theorem pmStart_of_not_scalar (base : Point) (qs : List Point) (h : s.snap.k.toNat = 0 ∨ N ≤ s.snap.k.toNat) :
    pmStart s base qs = .next (AfterError s .scalar) := by
  have hk : ¬ scalarOk s.snap.k = true := by rw [scalarOk_iff]; omega
  rw [pmStart, if_neg hk]
  rfl

theorem pmStart_of_scalar (base : Point) (qs : List Point) (hk : scalarOk s.snap.k = true) :
    pmStart s base qs = withPoints s qs fun s => pmInit s base := by rw [pmStart, if_pos hk]

theorem exec_pmul_first (h : s.pm.started = false) : exec .pmul s = pmStart s s.snap.pt1 [s.snap.pt1] := by
  simp [exec, execPmul, h]

theorem exec_pmulg_first (h : s.pm.started = false) : exec .pmulg s = pmStart s basePoint [] := by
  simp [exec, execPmulg, h]

theorem exec_scalar_started {i : Instr} (hi : IsScalar i) (h : s.pm.started = true) :
    exec i s = .next (pmStep s) := by
  obtain rfl | rfl := hi
  · simp [exec, execPmul, h]
  · simp [exec, execPmulg, h]

theorem pmStep_finish (h : s.pm.idx = idxOver) : pmStep s = completePoint s s.pm.acc.point := by
  rw [pmStep, if_pos h, pmFinish]

theorem pmStep_double (h : s.pm.idx ≠ idxOver) (hph : s.pm.phase = .dbl) : pmStep s = pmDouble s := by
  rw [pmStep, if_neg h, hph]

theorem pmStep_add (h : s.pm.idx ≠ idxOver) (hph : s.pm.phase = .add) : pmStep s = pmAdd s := by
  rw [pmStep, if_neg h, hph]

/-- The doubling at a one bit (42_scalar_mult.md R120). -/
theorem pmDouble_one (h : s.snap.k.getLsbD s.pm.idx.toNat = true) :
    pmDouble s =
      { s with pm := { s.pm with acc := PointReg.ofPoint (dbl s.pm.acc.point), phase := .add } } := by
  rw [pmDouble, if_pos h]

/-- The doubling at a zero bit (42_scalar_mult.md R120). -/
theorem pmDouble_zero (h : s.snap.k.getLsbD s.pm.idx.toNat = false) :
    pmDouble s =
      { s with pm := { s.pm with acc := PointReg.ofPoint (dbl s.pm.acc.point), idx := s.pm.idx - 1 } } := by
  rw [pmDouble, if_neg (by simp [h])]

theorem pmul_of_not_range (hst : s.pm.started = false) (hk : scalarOk s.snap.k = true) (hi : s.snap.inf1 = false)
    (h : P ≤ opA s ∨ P ≤ opB s) : exec .pmul s = .next (AfterError s .range) := by
  rw [exec_pmul_first hst, pmStart_of_scalar _ _ hk]
  exact withPoints_of_not_range (List.mem_singleton_self _) (pointOperand_not_range hi h)

theorem pmul_of_not_curve (hst : s.pm.started = false) (hk : scalarOk s.snap.k = true) (hi : s.snap.inf1 = false)
    (ha : opA s < P) (hb : opB s < P) (h : ¬ OnSecp (opA s) (opB s)) :
    exec .pmul s = .next (AfterError s .notOnCurve) := by
  rw [exec_pmul_first hst, pmStart_of_scalar _ _ hk]
  exact withPoints_of_not_curve (List.forall_mem_singleton.2 (pointOperand_rangeOk (.inr ⟨ha, hb⟩)))
    (List.mem_singleton_self _) (pointOperand_not_curve hi h)

/-! ## The results -/

theorem execPchk_of_range (h : s.snap.pt1.rangeOk = true) :
    exec .pchk s = .next (AfterSuccess s (bit s.snap.pt1.curveOk) 0 false s.snap.pt1.curveOk) := by
  rw [exec, execPchk, if_pos h, completeCheck, completeOk_eq_afterSuccess]
  cases s.snap.pt1.curveOk <;> rfl

theorem execPdbl_of_valid (h : s.snap.pt1.valid = true) : exec .pdbl s = .next (completePoint s (dbl s.snap.pt1)) := by
  rw [exec_pdbl]
  exact withPoints_of_valid (List.forall_mem_singleton.2 h)

theorem execPadd_of_valid (h1 : s.snap.pt1.valid = true) (h2 : s.snap.pt2.valid = true) :
    exec .padd s = .next (completePoint s (add s.snap.pt1 s.snap.pt2)) := by
  rw [exec_padd]
  exact withPoints_of_valid (forall_mem_pair h1 h2)

end

/-- The tangent's equation on numbers (41_curve_points.md R105). -/
theorem tangent_mod {lam x y : Nat} (h : (lam : ZMod P) * (2 * y) = 3 * (x : ZMod P) ^ 2) :
    lam * (2 * y) % P = 3 * (x * x) % P := by
  rw [← ZMod.natCast_eq_natCast_iff']
  push_cast
  linear_combination h

/-- The chord's equation on numbers (41_curve_points.md R106). -/
theorem chord_mod {lam x1 y1 x2 y2 : Nat} (hx : x1 ≤ P) (hy : y1 ≤ P)
    (h : (lam : ZMod P) * (x2 - x1) = y2 - y1) : lam * (x2 + (P - x1)) % P = (y2 + (P - y1)) % P := by
  rw [← ZMod.natCast_eq_natCast_iff']
  push_cast [Nat.cast_sub hx, Nat.cast_sub hy, ZMod.natCast_self]
  linear_combination h

/-- Two points of the curve with the same `x` and different `y` are inverse (41_curve_points.md R108). -/
theorem y_eq_P_sub {x y1 y2 : Nat} (hy1 : y1 < P) (hy2 : y2 < P) (h1 : OnSecp x y1) (h2 : OnSecp x y2)
    (hne : y1 ≠ y2) : y2 = P - y1 := by
  have := fact_prime_P
  have h0 := Nat.pos_of_ne_zero (y_ne_zero_of_onSecp h1)
  rw [onSecp_iff_cast] at h1 h2
  have hmul : ((y1 : ZMod P) - y2) * (y1 + y2) = 0 := by linear_combination h1 - h2
  have hsum := (mul_eq_zero.1 hmul).resolve_left fun hc => hne (eq_of_cast_eq hy1 hy2 (sub_eq_zero.1 hc))
  refine eq_of_cast_eq hy2 (by omega) ?_
  rw [Nat.cast_sub hy1.le, ZMod.natCast_self]
  linear_combination hsum

/-- `bitlen(k) - 2` in the 9 bits of W.idx (42_scalar_mult.md R119). -/
theorem firstIdx_eq_ofInt (k : Wide) : firstIdx k = BitVec.ofInt 9 (bitlen k - 2 : Int) := by
  refine BitVec.eq_of_toNat_eq ?_
  have h2 : (2 : BitVec 9).toNat = 2 := rfl
  rw [firstIdx, BitVec.toNat_sub, BitVec.toNat_ofInt, BitVec.toNat_ofNat, h2]
  omega

end Sys2Proof.PointCommands

open Sys2Proof Sys2Proof.Machine Sys2Proof.Config Sys2Proof.CurveRules Sys2Proof.FieldRules Sys2Proof.CommandSteps
  Sys2Proof.PointCommands

/-- Settles O10 (60_exceptions.md R137). -/
theorem checksAreInOrder : Obligations.ChecksAreInOrder := by
  unfold Obligations.ChecksAreInOrder
  refine ⟨fun s why => engineStep_illegal, fun s hst hk => ⟨?_, ?_⟩, fun s hst h1 hN hi => ?_,
    fun s hi => ⟨pdbl_of_not_range hi, pdbl_of_not_curve hi⟩, fun s => padd_of_not_range,
    fun s => padd_of_not_curve, fun s => ⟨fieldInverse_of_le, fieldInverse_of_le⟩⟩
  · rw [exec_pmul_first hst, pmStart_of_not_scalar _ _ hk]
  · rw [exec_pmulg_first hst, pmStart_of_not_scalar _ _ hk]
  · have hk := (scalarOk_iff _).2 ⟨h1, hN⟩
    exact ⟨pmul_of_not_range hst hk hi, pmul_of_not_curve hst hk hi⟩

/-- Settles O18 (41_curve_points.md R104): a point in range gives the verdict of the curve check. -/
theorem curveCheckResult : Obligations.CurveCheckResult := by
  unfold Obligations.CurveCheckResult
  refine ⟨by decide, ⟨_, rfl⟩, fun s => ⟨fun hi => ?_, fun hi ha hb hc => ?_, fun hi ha hb hc => ?_, fun hi hr => ?_⟩⟩
  · have hpt : s.snap.pt1 = .inf := pointOperand_of_inf hi
    rw [execPchk_of_range (by rw [hpt]; rfl), hpt]
    rfl
  · have hv : s.snap.pt1.curveOk = true := by
      rw [Snapshot.pt1, pointOperand_of_aff hi, Point.curveOk, onCurve_iff]
      exact hc
    rw [execPchk_of_range (pointOperand_rangeOk (.inr ⟨ha, hb⟩)), hv]
    rfl
  · have hv : s.snap.pt1.curveOk = false := pointOperand_not_curve hi hc
    rw [execPchk_of_range (pointOperand_rangeOk (.inr ⟨ha, hb⟩)), hv]
    rfl
  · have hpt : s.snap.pt1.rangeOk = false := pointOperand_not_range hi hr
    simp only [exec, execPchk, hpt]
    rfl

/-- Settles O19 (41_curve_points.md R105, R107): the tangent's point, the operand's `y` not being 0. -/
theorem pointDoublingResult : Obligations.PointDoublingResult := by
  unfold Obligations.PointDoublingResult
  refine ⟨by decide, ⟨_, rfl⟩, fun s => ⟨fun hi => ?_, fun hi ha hb hc => ?_, pdbl_of_not_range, pdbl_of_not_curve⟩⟩
  · have hpt : s.snap.pt1 = .inf := pointOperand_of_inf hi
    rw [execPdbl_of_valid (by rw [hpt]; rfl), hpt]
    rfl
  · have hpt : s.snap.pt1 = .aff (opA s) (opB s) := pointOperand_of_aff hi
    obtain ⟨lam, x3, y3, hd, hl, hs⟩ := dbl_affine (x := opA s) (y_ne_zero_of_onSecp hc) hb
    refine ⟨lam, x3, y3, tangent_mod hs, hl, ?_⟩
    rw [execPdbl_of_valid (pointOperand_valid (.inr ⟨ha, hb, hc⟩)), hpt, hd]
    rfl

/-- Settles O20 (41_curve_points.md R106, R108), by the cases of the addition function on operands that pass the checks. -/
theorem pointAdditionResult : Obligations.PointAdditionResult := by
  unfold Obligations.PointAdditionResult
  refine ⟨by decide, ⟨_, rfl⟩, fun s => ⟨fun hi hj => ?_, fun hi hj hc hd hon => ?_, fun hi hj ha hb hon => ?_,
    fun hi hj ha hb hab hc hd hcd => ?_, padd_of_not_range, padd_of_not_curve⟩⟩
  · have h1 : s.snap.pt1 = .inf := pointOperand_of_inf hi
    have h2 : s.snap.pt2 = .inf := pointOperand_of_inf hj
    rw [execPadd_of_valid (by rw [h1]; rfl) (by rw [h2]; rfl), h1, h2]
    rfl
  · have h1 : s.snap.pt1 = .inf := pointOperand_of_inf hi
    have h2 : s.snap.pt2 = .aff (opC s) (opD s) := pointOperand_of_aff hj
    rw [execPadd_of_valid (by rw [h1]; rfl) (pointOperand_valid (.inr ⟨hc, hd, hon⟩)), h1, h2]
    rfl
  · have h1 : s.snap.pt1 = .aff (opA s) (opB s) := pointOperand_of_aff hi
    have h2 : s.snap.pt2 = .inf := pointOperand_of_inf hj
    rw [execPadd_of_valid (pointOperand_valid (.inr ⟨ha, hb, hon⟩)) (by rw [h2]; rfl), h1, h2]
    rfl
  · have h1 : s.snap.pt1 = .aff (opA s) (opB s) := pointOperand_of_aff hi
    have h2 : s.snap.pt2 = .aff (opC s) (opD s) := pointOperand_of_aff hj
    have v1 : s.snap.pt1.valid = true := pointOperand_valid (.inr ⟨ha, hb, hab⟩)
    rw [execPadd_of_valid v1 (pointOperand_valid (.inr ⟨hc, hd, hcd⟩)), execPdbl_of_valid v1, h1, h2]
    refine ⟨fun hx hy => ?_, fun hx hy => ⟨?_, ?_⟩, fun hx => ?_⟩
    · rw [← hx, ← hy, add_same]
    · exact y_eq_P_sub hb hd hab (hx ▸ hcd) hy
    · rw [← hx, add_inverse hy]
      rfl
    · obtain ⟨lam, x3, y3, hadd, hl, hs⟩ := add_affine (y1 := opB s) (y2 := opD s) ha hc hx
      exact ⟨lam, x3, y3, chord_mod ha.le hb.le hs, hl, by rw [hadd]; rfl⟩

/-- Settles O25 (42_scalar_mult.md R117, R119, R124, R125). -/
theorem scalarCommandStarts : Obligations.ScalarCommandStarts := by
  unfold Obligations.ScalarCommandStarts
  refine ⟨by decide, by decide, fun s hst h1 hN => ⟨fun hpt => ?_, ?_⟩⟩
  · have hinit : exec .pmul s = .next (pmInit s s.snap.pt1) := by
      rw [exec_pmul_first hst, pmStart_of_scalar _ _ ((scalarOk_iff _).2 ⟨h1, hN⟩)]
      exact withPoints_of_valid (List.forall_mem_singleton.2 (pointOperand_valid hpt))
    refine ⟨PointReg.ofPoint s.snap.pt1, fun hi => ?_, fun hi => ?_, ?_⟩
    · rw [Snapshot.pt1, pointOperand_of_inf hi]
      rfl
    · rw [Snapshot.pt1, pointOperand_of_aff hi]
      simp [PointReg.ofPoint, wide]
    · rw [hinit, ← firstIdx_eq_ofInt]
      rfl
  · rw [exec_pmulg_first hst, pmStart_of_scalar _ _ ((scalarOk_iff _).2 ⟨h1, hN⟩), ← firstIdx_eq_ofInt]
    rfl

/-- Settles O26 (42_scalar_mult.md R120 to R122): after PM_INIT the step is chosen by W.idx, W.phase and the bit of W.k. -/
theorem scalarMicroStepsAndFinish : Obligations.ScalarMicroStepsAndFinish := by
  unfold Obligations.ScalarMicroStepsAndFinish
  intro i s hi hst
  rw [exec_scalar_started hi hst]
  refine ⟨fun hidx hph hbit => ?_, fun hidx hph hbit => ?_, fun hidx hph => ?_, fun hidx hinf => ?_,
    fun hidx hinf => ?_⟩
  · rw [pmStep_double hidx hph, pmDouble_one hbit]
  · rw [pmStep_double hidx hph, pmDouble_zero hbit]
  · rw [pmStep_add hidx hph]
    rfl
  · rw [pmStep_finish hidx, PointReg.point, pointOperand_of_inf hinf]
    rfl
  · rw [pmStep_finish hidx, PointReg.point, pointOperand_of_aff hinf]
    rfl

end

section
/-! What every step keeps (10_state.md R23 to R42): one inversion lemma for a step of the machine, in the words of the
fields it can change, and from it the invariants and the rules of when a register changes. -/

namespace Sys2Proof.Invariants

open Sys2Proof.Machine Sys2Proof.Laws Sys2Proof.Config Sys2Proof.FieldRules Sys2Proof.CurveRules Sys2Proof.CommandSteps

/-! ## One step of the machine, by the fields it can change -/

/-- What holds of a step in which the host or the reset input's release moved, and no command was accepted: DONE, ERR and
the reset input can only fall, a host fault is kept, and the engine, the results and CMD stay. -/
structure HostFrame (s t : State) : Prop where
  cmd       : t.cmd = s.cmd
  done      : t.done = true → s.done = true
  err       : t.err = true → s.err = true
  errcode   : t.errcode = s.errcode
  rinf      : t.rinf = s.rinf
  oncurve   : t.oncurve = s.oncurve
  resX      : t.resX = s.resX
  resY      : t.resY = s.resY
  eng       : t.eng = s.eng
  snap      : t.snap = s.snap
  pm        : t.pm = s.pm
  inReset   : t.inReset = true → s.inReset = true
  basePage  : t.basePage = s.basePage
  hostFault : s.hostFault = true → t.hostFault = true

theorem HostFrame.busy {s t : State} (h : HostFrame s t) : t.busy = s.busy := by rw [State.busy, h.eng, ← State.busy]

/-- `t` with other answers, host fault, schedule and host program: what lies outside the block. -/
abbrev outside (t : State) (ans : List Answer) (hf : Bool) (ts : List Turn) (hs : HostState) : State :=
  { t with answers := ans, hostFault := hf, turns := ts, host := hs }

/-- An engine step that moves: the step of the command in the snapshot, or the error completion of an illegal word. -/
inductive EngineMove (s : State) : State → Prop
  | command (i : Instr) (t : State) : snapCommand s = .command i → exec i s = .next t → EngineMove s t
  | illegal : EngineMove s (raiseError s .illegalCmd)

/-- Every next state of a step of the machine. -/
inductive StepOutcome (s : State) : State → Prop
  | frame (t : State) : HostFrame s t → StepOutcome s t
  | accepted (w : Word) (ans : List Answer) (hf : Bool) (ts : List Turn) (hs : HostState) : s.inReset = false →
      s.busy = false → (s.hostFault = true → hf = true) → StepOutcome s (outside (accept s w) ans hf ts hs)
  | engine (ts : List Turn) (t : State) : s.inReset = false → s.busy = true → EngineMove (setTurns s ts) t →
      StepOutcome s t
  | reset (ts : List Turn) : StepOutcome s (setReset (resetBlock (setTurns s ts)) true)

theorem hostEffect_accepted_or_frame {s u : State} (h : HostEffect s u) :
    (∃ w, s.busy = false ∧ u = accept s w) ∨ HostFrame s u := by
  cases h with
  | accept w hb => exact .inl ⟨w, hb, rfl⟩
  | _ => right; constructor <;> simp +contextual

theorem step_outcome {s t : State} (h : step s = .next t) : StepOutcome s t := by
  cases step_effect h with
  | host u ans hf ts hs hu hfault hreset =>
    by_cases hr : s.inReset = true
    · rw [hreset hr]
      exact .frame _ ⟨rfl, id, id, rfl, rfl, rfl, rfl, rfl, rfl, rfl, rfl, id, rfl, hfault⟩
    · obtain ⟨w, hb, rfl⟩ | hframe := hostEffect_accepted_or_frame hu
      · exact .accepted w ans hf ts hs (Bool.eq_false_iff.2 hr) hb hfault
      · exact .frame _ { hframe with hostFault := hfault }
  | command ts i _ hr hb hi hexec => exact .engine ts t hr hb (.command i t hi hexec)
  | illegal ts hr hb => exact .engine ts _ hr hb .illegal
  | resetAssert ts => exact .reset ts
  | resetRelease ts =>
    exact .frame _ ⟨rfl, id, id, rfl, rfl, rfl, rfl, rfl, rfl, rfl, rfl, (fun hc => by cases hc), rfl, id⟩

/-- The three kinds of outcome of an engine step that moves. -/
theorem EngineMove.outcome {s t : State} (h : EngineMove s t) :
    (∃ pm, t = { s with pm := pm }) ∨ (∃ rx ry rinf oncurve, t = AfterSuccess s rx ry rinf oncurve) ∨
      ∃ code, code ≠ .none ∧ t = AfterError s code := by
  cases h with
  | command i _ _ hexec =>
    exact (exec_inv hexec).outcome.imp And.right (Or.imp_right fun ⟨code, hc, ht⟩ => ⟨code, hc.ne_none, ht⟩)
  | illegal => exact .inr (.inr ⟨.illegalCmd, by decide, rfl⟩)

theorem engineStep_move {s t : State} (hb : s.busy = true) (hr : s.inReset = false) (h : engineStep s = .next t) :
    EngineMove s t := by
  obtain ⟨hstill, _⟩ | ⟨_, _, ⟨i, hi, hexec⟩ | ⟨_, _, rfl⟩⟩ := engineStep_cases h
  · simp [hb, hr] at hstill
  · exact .command i t hi hexec
  · exact .illegal

theorem registersReset_resetBlock (s : State) (b : Bool) : RegistersReset (setReset (resetBlock s) b) :=
  ⟨rfl, rfl, rfl, rfl, rfl, rfl, rfl, rfl, rfl, rfl, fun x => by cases x <;> rfl, rfl, rfl, rfl, rfl⟩

/-! ## The status invariant -/

/-- The invariant is one of the block: what lies outside it does not matter. -/
theorem statusInv_outside {s : State} (h : StatusInv s) (ans : List Answer) (hf : Bool) (ts : List Turn)
    (hs : HostState) : StatusInv (outside s ans hf ts hs) :=
  ⟨h.busyDone, h.busyErr, h.busyCode, h.busyEng, h.busyCmd, h.errCode, h.infResult, h.onResult, h.rangeX, h.rangeY,
    h.resetIdle⟩

theorem statusInv_withPm {s : State} (h : StatusInv s) (pm : PmRegs) : StatusInv { s with pm := pm } :=
  ⟨h.busyDone, h.busyErr, h.busyCode, h.busyEng, h.busyCmd, h.errCode, h.infResult, h.onResult, h.rangeX, h.rangeY,
    h.resetIdle⟩

theorem statusInv_of_frame {s t : State} (h : StatusInv s) (hf : HostFrame s t) : StatusInv t where
  busyDone hb := Bool.eq_false_iff.2 fun hd => by simpa [h.busyDone (hf.busy ▸ hb)] using hf.done hd
  busyErr hb := Bool.eq_false_iff.2 fun he => by simpa [h.busyErr (hf.busy ▸ hb)] using hf.err he
  busyCode hb := hf.errcode.trans (h.busyCode (hf.busy ▸ hb))
  busyEng hb := by rw [hf.eng, hf.snap]; exact h.busyEng (hf.busy ▸ hb)
  busyCmd hb := by rw [hf.cmd, hf.snap]; exact h.busyCmd (hf.busy ▸ hb)
  errCode he := hf.errcode ▸ h.errCode (hf.err he)
  infResult hi := by rw [hf.resX, hf.resY, hf.oncurve]; exact h.infResult (hf.rinf ▸ hi)
  onResult ho := by rw [hf.resX, hf.resY]; exact h.onResult (hf.oncurve ▸ ho)
  rangeX := hf.resX ▸ h.rangeX
  rangeY := hf.resY ▸ h.rangeY
  resetIdle hr := hf.eng.trans (h.resetIdle (hf.inReset hr))

theorem statusInv_accept {s : State} (h : StatusInv s) (hr : s.inReset = false) (w : Word) :
    StatusInv (accept s w) where
  busyDone _ := rfl
  busyErr _ := rfl
  busyCode _ := rfl
  busyEng _ := rfl
  busyCmd _ := (CommandWords.joinWord_splitWord w).symm
  errCode he := by cases he
  infResult := h.infResult
  onResult := h.onResult
  rangeX := h.rangeX
  rangeY := h.rangeY
  resetIdle hc := by simp [hr] at hc

theorem statusInv_completeOk {s : State} (h : StatusInv s) {rx ry : Wide} {rinf oncurve : Bool}
    (hinf : rinf = true → rx = 0 ∧ ry = 0 ∧ oncurve = false) (hon : oncurve = true → rx = 1 ∧ ry = 0)
    (hx : rx.toNat < P) (hy : ry.toNat < P) : StatusInv (completeOk s rx ry rinf oncurve) where
  busyDone hb := by cases hb
  busyErr hb := by cases hb
  busyCode hb := by cases hb
  busyEng hb := by cases hb
  busyCmd hb := by cases hb
  errCode := h.errCode
  infResult := hinf
  onResult := hon
  rangeX := hx
  rangeY := hy
  resetIdle _ := rfl

theorem statusInv_raiseError {s : State} (h : StatusInv s) {code : ErrCode} (hc : code ≠ .none) :
    StatusInv (raiseError s code) where
  busyDone hb := by cases hb
  busyErr hb := by cases hb
  busyCode hb := by cases hb
  busyEng hb := by cases hb
  busyCmd hb := by cases hb
  errCode _ := hc
  infResult := h.infResult
  onResult := h.onResult
  rangeX := h.rangeX
  rangeY := h.rangeY
  resetIdle _ := rfl

theorem statusInv_resetBlock (s : State) : StatusInv (setReset (resetBlock s) true) where
  busyDone _ := rfl
  busyErr _ := rfl
  busyCode _ := rfl
  busyEng hb := by cases hb
  busyCmd hb := by cases hb
  errCode he := by cases he
  infResult hi := by cases hi
  onResult ho := by cases ho
  rangeX := P_pos
  rangeY := P_pos
  resetIdle _ := rfl

theorem toNat_wide_lt {c : Nat} (h : c < P) : (wide c).toNat < P := (toNat_wide (h.trans P_lt)).symm ▸ h

theorem statusInv_completePoint {s : State} (h : StatusInv s) {q : Point} (hq : q.rangeOk = true) :
    StatusInv (completePoint s q) := by
  cases q with
  | inf => exact statusInv_completeOk h (fun _ => ⟨rfl, rfl, rfl⟩) nofun P_pos P_pos
  | aff x y =>
    obtain ⟨hx, hy⟩ := (rangeOk_aff_iff x y).1 hq
    exact statusInv_completeOk h nofun nofun (toNat_wide_lt hx) (toNat_wide_lt hy)

theorem modulus_le_P : ∀ m ∈ [P, N], m ≤ P := forall_mem_pair le_rfl N_lt_P.le

/-- The step of a command keeps the status invariant, the scalar engine's result being in range. -/
theorem statusInv_exec {i : Instr} {s t : State} (h : StatusInv s) (hb : s.busy = true) (hs : ScalarInv s)
    (ht : ExecEffect s i t) : StatusInv t := by
  cases ht with
  | field m c _ hm hc =>
    exact statusInv_completeOk h nofun nofun (toNat_wide_lt (hc.trans_le (modulus_le_P m hm))) P_pos
  | checked v =>
    refine statusInv_completeOk h nofun (fun hv => ⟨if_pos hv, rfl⟩) ?_ P_pos
    cases v <;> decide
  | doubled hv => exact statusInv_completePoint h (rangeOk_of_valid (dbl_valid hv))
  | added hv hw => exact statusInv_completePoint h (rangeOk_of_valid (add_valid hv hw))
  | error code hc => exact statusInv_raiseError h hc.ne_none
  | start base _ _ _ _ => exact statusInv_withPm h _
  | double _ _ _ _ => rw [pmDouble_eq]; exact statusInv_withPm h _
  | add _ _ _ _ => exact statusInv_withPm h _
  | finish _ hst _ => exact statusInv_completePoint h (hs.acc hb hst)

/-! ## The scalar engine's invariants -/

theorem scalarInv_of_not_busy {s : State} (h : s.busy = false) : ScalarInv s := by
  constructor <;> simp [h]

theorem curveInv_of_not_busy {s : State} (h : s.busy = false) : CurveInv s := by
  constructor <;> simp [h]

theorem scalarInv_of_not_started {s : State} (h : s.pm.started = false) : ScalarInv s := by
  constructor <;> simp [h]

theorem curveInv_of_not_started {s : State} (h : s.pm.started = false) : CurveInv s := by
  constructor <;> simp [h]

theorem scalarInv_outside {s : State} (h : ScalarInv s) (ans : List Answer) (hf : Bool) (ts : List Turn)
    (hs : HostState) : ScalarInv (outside s ans hf ts hs) := ⟨h.scalar, h.acc, h.base, h.idx, h.phase⟩

theorem curveInv_outside {s : State} (h : CurveInv s) (ans : List Answer) (hf : Bool) (ts : List Turn)
    (hs : HostState) : CurveInv (outside s ans hf ts hs) := ⟨h.acc, h.base⟩

theorem scalarInv_of_frame {s t : State} (h : ScalarInv s) (hf : HostFrame s t) : ScalarInv t := by
  constructor <;> simp only [hf.busy, hf.pm, hf.snap]
  · exact h.scalar
  · exact h.acc
  · exact h.base
  · exact h.idx
  · exact h.phase

theorem curveInv_of_frame {s t : State} (h : CurveInv s) (hf : HostFrame s t) : CurveInv t := by
  constructor <;> simp only [hf.busy, hf.pm]
  · exact h.acc
  · exact h.base

/-- `bitlen` is Mathlib's `Nat.size` (00_scope.md R11). -/
theorem bitlenLoop_eq_size : ∀ (fuel k : Nat), k < 2 ^ fuel → bitlenLoop fuel k = Nat.size k
  | 0, k, h => by
    obtain rfl : k = 0 := by simpa using h
    rfl
  | fuel + 1, k, h => by
    rw [bitlenLoop]
    split
    · rename_i h0
      rw [h0, Nat.size_zero]
    · rename_i h0
      have hbit := Nat.bit_bodd_div2 k
      rw [bitlenLoop_eq_size fuel (k / 2) (by omega), ← Nat.div2_val]
      conv_rhs => rw [← hbit]
      rw [Nat.size_bit (hbit.symm ▸ h0)]

theorem bitlen_eq_size (k : Wide) : bitlen k = Nat.size k.toNat := bitlenLoop_eq_size 256 _ k.isLt

theorem bitlen_le (k : Wide) : bitlen k ≤ 256 := by
  rw [bitlen_eq_size, Nat.size_le]
  exact k.isLt

theorem bitlen_pos {k : Wide} (h : scalarOk k = true) : 0 < bitlen k := by
  rw [bitlen_eq_size, Nat.size_pos]
  exact ((PointCommands.scalarOk_iff k).1 h).1

/-- The first index is that of a bit below the top one, or -1 (42_scalar_mult.md R119). -/
theorem firstIdx_range {k : Wide} (h : scalarOk k = true) :
    firstIdx k = idxOver ∨ (firstIdx k).toNat + 2 ≤ bitlen k := by
  have hpos := bitlen_pos h
  have hle := bitlen_le k
  have h2 : (2 : BitVec 9).toNat = 2 := rfl
  have hnat : (firstIdx k).toNat = (2 ^ 9 - 2 + bitlen k % 2 ^ 9) % 2 ^ 9 := by
    rw [firstIdx, BitVec.toNat_sub, BitVec.toNat_ofNat, h2]
  by_cases h1 : bitlen k = 1
  · refine .inl (BitVec.eq_of_toNat_eq ?_)
    rw [hnat, h1]
    rfl
  · exact .inr (by omega)

/-- The index below an index is an index, or -1 (42_scalar_mult.md R120). -/
theorem idx_pred_range {idx : BitVec 9} {n : Nat} (h : idx.toNat + 2 ≤ n) :
    idx - 1 = idxOver ∨ (idx - 1).toNat + 2 ≤ n := by
  by_cases h0 : idx = 0
  · exact .inl (by rw [h0]; rfl)
  · right
    have hne : idx.toNat ≠ 0 := fun hc => h0 (BitVec.eq_of_toNat_eq hc)
    have hlt := idx.isLt
    have h1 : (1 : BitVec 9).toNat = 1 := rfl
    rw [BitVec.toNat_sub, h1]
    omega

/-! The values the working registers take. -/

theorem dbl_rangeOk (q : Point) : (dbl q).rangeOk = true := by
  cases q with
  | inf => rfl
  | aff x y =>
    rw [dbl]
    split
    · rfl
    · exact (rangeOk_aff_iff _ _).2 ⟨fSub_lt P_pos _ _, fSub_lt P_pos _ _⟩

theorem add_rangeOk {q r : Point} (hq : q.rangeOk = true) (hr : r.rangeOk = true) : (add q r).rangeOk = true := by
  cases q with
  | inf => exact hr
  | aff x1 y1 =>
    cases r with
    | inf => exact hq
    | aff x2 y2 =>
      rw [add]
      split
      · exact dbl_rangeOk _
      · split
        · rfl
        · exact (rangeOk_aff_iff _ _).2 ⟨fSub_lt P_pos _ _, fSub_lt P_pos _ _⟩

/-- A working register keeps whatever holds of the point put into it, the point being in range. -/
theorem point_ofPoint_of {p : Point → Prop} {q : Point} (hr : q.rangeOk = true) (h : p q) :
    p (PointReg.ofPoint q).point := by rwa [point_ofPoint hr]

@[simp] theorem completePoint_busy (s : State) (q : Point) : (completePoint s q).busy = false := by
  rw [completePoint_eq]
  rfl

theorem scalarInv_pmInit {s : State} (hk : scalarOk s.snap.k = true) {base : Point} (hb : base.rangeOk = true) :
    ScalarInv (pmInit s base) where
  scalar _ _ := hk
  acc _ _ := point_ofPoint_of (p := fun q => q.rangeOk = true) hb hb
  base _ _ := point_ofPoint_of (p := fun q => q.rangeOk = true) hb hb
  idx _ _ := firstIdx_range hk
  phase _ _ hph := by cases hph

theorem scalarInv_pmAdd {s : State} (h : ScalarInv s) (hb : s.busy = true) (hst : s.pm.started = true)
    (hidx : s.pm.idx ≠ idxOver) : ScalarInv (pmAdd s) where
  scalar := h.scalar
  acc _ _ :=
    have hr := add_rangeOk (h.acc hb hst) (h.base hb hst)
    point_ofPoint_of (p := fun q => q.rangeOk = true) hr hr
  base := h.base
  idx _ _ := idx_pred_range ((h.idx hb hst).resolve_left hidx)
  phase _ _ hph := by cases hph

theorem scalarInv_pmDouble {s : State} (h : ScalarInv s) (hb : s.busy = true) (hst : s.pm.started = true)
    (hidx : s.pm.idx ≠ idxOver) (hph : s.pm.phase = .dbl) : ScalarInv (pmDouble s) := by
  have hacc : (PointReg.ofPoint (dbl s.pm.acc.point)).point.rangeOk = true :=
    point_ofPoint_of (p := fun q => q.rangeOk = true) (dbl_rangeOk _) (dbl_rangeOk _)
  cases hbit : s.snap.k.getLsbD s.pm.idx.toNat with
  | true =>
    rw [PointCommands.pmDouble_one hbit]
    exact ⟨h.scalar, fun _ _ => hacc, h.base, h.idx, fun _ _ _ => ⟨hidx, hbit⟩⟩
  | false =>
    rw [PointCommands.pmDouble_zero hbit]
    refine ⟨h.scalar, fun _ _ => hacc, h.base, fun _ _ => idx_pred_range ((h.idx hb hst).resolve_left hidx),
      fun _ _ hc => ?_⟩
    rw [hph] at hc
    cases hc

theorem scalarInv_exec {i : Instr} {s t : State} (h : ScalarInv s) (hb : s.busy = true) (ht : ExecEffect s i t) :
    ScalarInv t := by
  cases ht with
  | field m c _ _ _ => exact scalarInv_of_not_busy rfl
  | checked v => exact scalarInv_of_not_busy rfl
  | doubled _ => exact scalarInv_of_not_busy (completePoint_busy _ _)
  | added _ _ => exact scalarInv_of_not_busy (completePoint_busy _ _)
  | error code _ => exact scalarInv_of_not_busy rfl
  | start base _ _ hk hbase => exact scalarInv_pmInit hk (rangeOk_of_valid hbase)
  | double _ hst hidx hph => exact scalarInv_pmDouble h hb hst hidx hph
  | add _ hst hidx _ => exact scalarInv_pmAdd h hb hst hidx
  | finish _ _ _ => exact scalarInv_of_not_busy (completePoint_busy _ _)

theorem curveInv_exec {i : Instr} {s t : State} (h : CurveInv s) (hb : s.busy = true) (ht : ExecEffect s i t) :
    CurveInv t := by
  have hput : ∀ q : Point, q.valid = true → (PointReg.ofPoint q).point.valid = true := fun q hq =>
    point_ofPoint_of (p := fun q => q.valid = true) (rangeOk_of_valid hq) hq
  cases ht with
  | field m c _ _ _ => exact curveInv_of_not_busy rfl
  | checked v => exact curveInv_of_not_busy rfl
  | doubled _ => exact curveInv_of_not_busy (completePoint_busy _ _)
  | added _ _ => exact curveInv_of_not_busy (completePoint_busy _ _)
  | error code _ => exact curveInv_of_not_busy rfl
  | start base _ _ _ hbase => exact ⟨fun _ _ => hput base hbase, fun _ _ => hput base hbase⟩
  | double _ hst _ _ =>
    refine ⟨fun _ _ => ?_, fun _ _ => ?_⟩
    · rw [pmDouble_pm_acc]
      exact hput _ (dbl_valid (h.acc hb hst))
    · rw [pmDouble_pm_base]
      exact h.base hb hst
  | add _ hst _ _ => exact ⟨fun _ _ => hput _ (add_valid (h.acc hb hst) (h.base hb hst)), h.base⟩
  | finish _ _ _ => exact curveInv_of_not_busy (completePoint_busy _ _)

/-! ## Every step keeps the invariants -/

theorem step_statusInv {s t : State} (hs : StatusInv s) (hk : ScalarInv s) (h : step s = .next t) : StatusInv t := by
  cases step_outcome h with
  | frame _ hf => exact statusInv_of_frame hs hf
  | accepted w ans hf ts host hr _ _ => exact statusInv_outside (statusInv_accept hs hr w) ans hf ts host
  | engine ts _ _ hb hmove =>
    have hs' := statusInv_outside hs s.answers s.hostFault ts s.host
    cases hmove with
    | command i _ _ hexec =>
      exact statusInv_exec hs' hb (scalarInv_outside hk s.answers s.hostFault ts s.host) (exec_inv hexec)
    | illegal => exact statusInv_raiseError hs' (by decide)
  | reset ts => exact statusInv_resetBlock _

theorem step_scalarInv {s t : State} (hk : ScalarInv s) (h : step s = .next t) : ScalarInv t := by
  cases step_outcome h with
  | frame _ hf => exact scalarInv_of_frame hk hf
  | accepted w ans hf ts host _ _ _ => exact scalarInv_of_not_started rfl
  | engine ts _ _ hb hmove =>
    cases hmove with
    | command i _ _ hexec =>
      exact scalarInv_exec (scalarInv_outside hk s.answers s.hostFault ts s.host) hb (exec_inv hexec)
    | illegal => exact scalarInv_of_not_busy rfl
  | reset ts => exact scalarInv_of_not_busy rfl

theorem step_curveInv {s t : State} (hc : CurveInv s) (h : step s = .next t) : CurveInv t := by
  cases step_outcome h with
  | frame _ hf => exact curveInv_of_frame hc hf
  | accepted w ans hf ts host _ _ _ => exact curveInv_of_not_started rfl
  | engine ts _ _ hb hmove =>
    cases hmove with
    | command i _ _ hexec =>
      exact curveInv_exec (curveInv_outside hc s.answers s.hostFault ts s.host) hb (exec_inv hexec)
    | illegal => exact curveInv_of_not_busy rfl
  | reset ts => exact curveInv_of_not_busy rfl

/-- A valid point completed with RINF = 0 is in the result registers, in range and on the curve. -/
theorem completePoint_onSecp {s : State} {q : Point} (hq : q.valid = true) (hinf : (completePoint s q).rinf = false) :
    (completePoint s q).resX.toNat < P ∧ (completePoint s q).resY.toNat < P ∧
      OnSecp (completePoint s q).resX.toNat (completePoint s q).resY.toNat := by
  cases q with
  | inf => cases hinf
  | aff x y =>
    obtain ⟨hx, hy, hon⟩ := (valid_aff_iff x y).1 hq
    rw [show (completePoint s (.aff x y)).resX.toNat = x from toNat_wide (hx.trans P_lt),
      show (completePoint s (.aff x y)).resY.toNat = y from toNat_wide (hy.trans P_lt)]
    exact ⟨hx, hy, hon⟩

end Sys2Proof.Invariants

open Sys2Proof Sys2Proof.Machine Sys2Proof.Laws Sys2Proof.CurveRules Sys2Proof.CommandSteps Sys2Proof.Invariants

/-- Settles O46 (10_state.md R23 to R39, R42; 42_scalar_mult.md R117 to R122), from what a step can do. -/
theorem stepKeepsStatusAndScalarInvariants : Obligations.StepKeepsStatusAndScalarInvariants := by
  unfold Obligations.StepKeepsStatusAndScalarInvariants
  exact fun s t hs hk h => ⟨step_statusInv hs hk h, step_scalarInv hk h⟩

/-- Settles O47 (41_curve_points.md R109): `dbl` and `add` stay on the curve. -/
theorem stepKeepsWorkingPointsOnTheCurve : Obligations.StepKeepsWorkingPointsOnTheCurve := by
  unfold Obligations.StepKeepsWorkingPointsOnTheCurve
  exact fun s t hc h => step_curveInv hc h

/-- Settles O48 (41_curve_points.md R109): of the outcomes of a point command only the success with a point has BUSY, ERR
and RINF 0. -/
theorem pointResultsLieOnTheCurve : Obligations.PointResultsLieOnTheCurve := by
  unfold Obligations.PointResultsLieOnTheCurve
  intro i s t hi hb he hc hexec hbt het hinf
  cases exec_inv hexec with
  | field m c hfield _ _ => rcases hi with rfl | rfl | rfl | rfl <;> exact absurd hfield (by decide)
  | checked v => simp at hi
  | doubled hv => exact completePoint_onSecp (dbl_valid hv) hinf
  | added hv hw => exact completePoint_onSecp (add_valid hv hw) hinf
  | error code _ => cases het
  | start base _ _ _ _ => exact absurd (hb.symm.trans hbt) (by decide)
  | double _ _ _ _ => exact absurd (hb.symm.trans ((pmDouble_busy s).symm.trans hbt)) (by decide)
  | add _ _ _ _ => exact absurd (hb.symm.trans hbt) (by decide)
  | finish _ hst _ => exact completePoint_onSecp (hc.acc hb hst) hinf

/-- Settles O49 (10_state.md R26). -/
theorem resultsChangeOnlyAtCompletion : Obligations.ResultsChangeOnlyAtCompletion := by
  unfold Obligations.ResultsChangeOnlyAtCompletion
  intro s t h
  cases step_outcome h with
  | frame _ hf => exact .inl ⟨hf.resX, hf.resY, hf.rinf, hf.oncurve⟩
  | accepted w ans hf ts host _ _ _ => exact .inl ⟨rfl, rfl, rfl, rfl⟩
  | engine ts _ _ hb hmove =>
    obtain ⟨pm, rfl⟩ | ⟨rx, ry, rinf, oncurve, rfl⟩ | ⟨code, _, rfl⟩ := hmove.outcome
    · exact .inl ⟨rfl, rfl, rfl, rfl⟩
    · exact .inr (.inl ⟨hb, rfl, rfl, rfl, rfl⟩)
    · exact .inl ⟨rfl, rfl, rfl, rfl⟩
  | reset ts => exact .inr (.inr ⟨rfl, registersReset_resetBlock _ _⟩)

/-- Settles O50 (10_state.md R37). -/
theorem snapshotChangesOnlyAtAcceptance : Obligations.SnapshotChangesOnlyAtAcceptance := by
  unfold Obligations.SnapshotChangesOnlyAtAcceptance
  intro s t h
  cases step_outcome h with
  | frame _ hf => exact .inl hf.snap
  | accepted w ans hf ts host _ hb _ => exact .inr (.inr ⟨hb, accept_busy s w, rfl, rfl, rfl, rfl, rfl, rfl, rfl⟩)
  | engine ts _ _ _ hmove =>
    obtain ⟨pm, rfl⟩ | ⟨rx, ry, rinf, oncurve, rfl⟩ | ⟨code, _, rfl⟩ := hmove.outcome <;> exact .inl rfl
  | reset ts => exact .inr (.inl ⟨rfl, registersReset_resetBlock _ _⟩)

/-- Settles O51 (10_state.md R27, R42). -/
theorem busyRisesAtAcceptanceAndFallsAtCompletion : Obligations.BusyRisesAtAcceptanceAndFallsAtCompletion := by
  unfold Obligations.BusyRisesAtAcceptanceAndFallsAtCompletion
  intro s t h
  cases step_outcome h with
  | frame _ hf =>
    rw [hf.busy]
    exact ⟨fun h0 h1 => absurd (h0.symm.trans h1) (by decide), fun h1 h0 => absurd (h0.symm.trans h1) (by decide)⟩
  | accepted w ans hf ts host _ hb _ =>
    exact ⟨fun _ _ => ⟨rfl, rfl, rfl, (CommandWords.joinWord_splitWord w).symm⟩,
      fun h1 => absurd (hb.symm.trans h1) (by decide)⟩
  | engine ts _ _ hb hmove =>
    refine ⟨fun h0 => absurd (h0.symm.trans hb) (by decide), fun _ h0 => .inl ?_⟩
    obtain ⟨pm, rfl⟩ | ⟨rx, ry, rinf, oncurve, rfl⟩ | ⟨code, _, rfl⟩ := hmove.outcome
    · exact absurd (h0.symm.trans hb) (by decide)
    · rfl
    · rfl
  | reset ts => exact ⟨fun _ h1 => (by cases h1), fun _ _ => .inr ⟨rfl, registersReset_resetBlock _ _⟩⟩

/-- Settles O52 (10_state.md R34). -/
theorem errcodeChangesOnlyAsItsRuleSays : Obligations.ErrcodeChangesOnlyAsItsRuleSays := by
  unfold Obligations.ErrcodeChangesOnlyAsItsRuleSays
  intro s t h
  cases step_outcome h with
  | frame _ hf => exact .inl hf.errcode
  | accepted w ans hf ts host _ hb _ => exact .inr (.inr ⟨rfl, .inl ⟨hb, accept_busy s w⟩⟩)
  | engine ts _ _ hb hmove =>
    obtain ⟨pm, rfl⟩ | ⟨rx, ry, rinf, oncurve, rfl⟩ | ⟨code, _, rfl⟩ := hmove.outcome
    · exact .inl rfl
    · exact .inl rfl
    · exact .inr (.inl ⟨hb, rfl, rfl, rfl⟩)
  | reset ts => exact .inr (.inr ⟨rfl, .inr ⟨rfl, registersReset_resetBlock _ _⟩⟩)

/-- Settles O54 (60_exceptions.md R140; 20_memory.md R46). -/
theorem hostFaultIsNeverCleared : Obligations.HostFaultIsNeverCleared := by
  unfold Obligations.HostFaultIsNeverCleared
  intro s t h
  cases step_outcome h with
  | frame _ hf => exact ⟨hf.hostFault, hf.basePage⟩
  | accepted w ans hf ts host _ _ hfault => exact ⟨hfault, rfl⟩
  | engine ts _ _ _ hmove =>
    obtain ⟨pm, rfl⟩ | ⟨rx, ry, rinf, oncurve, rfl⟩ | ⟨code, _, rfl⟩ := hmove.outcome <;> exact ⟨id, rfl⟩
  | reset ts => exact ⟨id, rfl⟩

end

section
/-! The register window (10_state.md R21 to R36; 20_memory.md R46 to R57) and the lifecycle of a command seen from it
(60_exceptions.md R132 to R141): the register map in both directions, the write of each register, and what is read. -/

namespace Sys2Proof.WindowRules

open Sys2Proof.Machine Sys2Proof.Laws Sys2Proof.RegisterRules Sys2Proof.CommandWords

/-! ## The register map (10_state.md R21) -/

theorem offset_eq_mapOffset : ∀ r : Reg, r.offset = MapOffset r
  | .id | .cmd | .status | .errcode | .irqEn | .ptFlags => rfl
  | .word x _ => by cases x <;> rfl

/-- The table below the reserved end of the window, offset by offset (10_state.md R21; 20_memory.md R48). -/
theorem regAt_table :
    ∀ k < 72, (∀ r ∈ regAt (4 * k), 4 * k = MapOffset r) ∧
      (regAt (4 * k) = none ↔ 0x018 ≤ 4 * k ∧ 4 * k ≤ 0x03C) := by decide

theorem regAt_of_ge {off : Nat} (h : 0x120 ≤ off) : regAt off = none := by
  unfold regAt
  repeat rw [if_neg (by omega)]

/-- The register named by an offset lies there. -/
theorem eq_mapOffset_of_regAt {off : Nat} {r : Reg} (ha : off % 4 = 0) (h : regAt off = some r) : off = MapOffset r := by
  obtain ⟨k, rfl⟩ := Nat.dvd_of_mod_eq_zero ha
  by_cases hk : k < 72
  · exact (regAt_table k hk).1 r h
  · rw [regAt_of_ge (by omega)] at h
    cases h

/-- The reserved offsets (20_memory.md R48). -/
theorem regAt_eq_none_iff {off : Nat} (ha : off % 4 = 0) :
    regAt off = none ↔ (0x018 ≤ off ∧ off ≤ 0x03C) ∨ 0x120 ≤ off := by
  obtain ⟨k, rfl⟩ := Nat.dvd_of_mod_eq_zero ha
  by_cases hk : k < 72
  · rw [(regAt_table k hk).2]
    omega
  · exact ⟨fun _ => .inr (by omega), fun _ => regAt_of_ge (by omega)⟩

/-! ## Reads (20_memory.md R51) -/

theorem statusWord_eq (s : State) :
    statusWord s = BitVec.ofNat 32 (bit s.busy + 2 * bit s.done + 4 * bit s.err + 8 * bit s.rinf + 16 * bit s.oncurve +
      32 * bit s.ovr) := by
  unfold statusWord
  generalize s.busy = b0, s.done = b1, s.err = b2, s.rinf = b3, s.oncurve = b4, s.ovr = b5
  revert b0 b1 b2 b3 b4 b5
  decide

theorem irqEnWord_eq (s : State) : irqEnWord s = BitVec.ofNat 32 (bit s.doneIe) := by
  unfold irqEnWord
  cases s.doneIe <;> rfl

theorem ptFlagsWord_eq (s : State) : ptFlagsWord s = BitVec.ofNat 32 (bit s.inf1 + 2 * bit s.inf2) := by
  unfold ptFlagsWord
  generalize s.inf1 = b0, s.inf2 = b1
  revert b0 b1
  decide

theorem getWord_toNat (x : Wide) (i : Fin 8) : (getWord x i).toNat = x.toNat / 2 ^ (32 * i.val) % 2 ^ 32 := by
  rw [getWord, BitVec.extractLsb'_toNat, Nat.shiftRight_eq_div_pow]

/-- The value read, by its number (20_memory.md R51). -/
theorem readReg_eq_readValue (s : State) (r : Reg) : readReg s r = BitVec.ofNat 32 (ReadValue s r) := by
  cases r with
  | id => rfl
  | cmd => exact (BitVec.ofNat_toNat 32 s.cmd).symm ▸ (BitVec.setWidth_eq s.cmd).symm
  | status => exact statusWord_eq s
  | errcode => simp only [readReg, ReadValue]; cases s.errcode <;> rfl
  | irqEn => exact irqEnWord_eq s
  | ptFlags => exact ptFlagsWord_eq s
  | word x i =>
    refine BitVec.eq_of_toNat_eq ?_
    rw [readReg, getWord_toNat, ReadValue, getWide_eq_wideValue, BitVec.toNat_ofNat, Nat.mod_mod]

theorem busAccess_wordRead {s : State} (hr : s.inReset = false) (r : Reg) (d : Word) :
    busAccess (wordRead s (MapOffset r) d) s = .next (pushAnswer s (.read (readReg s r))) := by
  rw [wordRead, busAccess_read s d hr (mapOffset_lt r) (mapOffset_aligned r), readOff_mapOffset]

/-! ## Writes (20_memory.md R52) -/

theorem writeReg_cmd_idle {s : State} (hb : s.busy = false) (w : Word) : writeReg s w .cmd = accept s w := by
  simp [writeReg, hb]

theorem writeReg_cmd_busy {s : State} (hb : s.busy = true) (w : Word) : writeReg s w .cmd = overrun s := by
  simp [writeReg, hb]

/-- A register the host cannot write (10_state.md R22, R26, R34). -/
theorem writeReg_readOnly (s : State) (v : Word) {r : Reg}
    (h : r = .id ∨ r = .errcode ∨ (∃ i, r = .word .resX i) ∨ ∃ i, r = .word .resY i) : writeReg s v r = s := by
  obtain rfl | rfl | ⟨i, rfl⟩ | ⟨i, rfl⟩ := h <;> rfl

theorem writeOff_reserved {s : State} {off : Nat} (h : regAt off = none) (v : Word) : writeOff s off v = s := by
  simp [writeOff, h]

theorem writeOff_of_regAt {s : State} {off : Nat} {r : Reg} (h : regAt off = some r) (v : Word) :
    writeOff s off v = writeReg s v r := by
  simp [writeOff, h]

/-- A write to a read-only register or a reserved offset is ignored (20_memory.md R48, R52). -/
theorem writeOff_ignored (s : State) {off : Nat} (v : Word) (ha : off % 4 = 0)
    (h : off = 0x000 ∨ off = 0x00C ∨ (0x0E0 ≤ off ∧ off ≤ 0x11C) ∨ (0x018 ≤ off ∧ off ≤ 0x03C) ∨ 0x120 ≤ off) :
    writeOff s off v = s := by
  cases hreg : regAt off with
  | none => exact writeOff_reserved hreg v
  | some r =>
    rw [writeOff_of_regAt hreg]
    obtain rfl := eq_mapOffset_of_regAt ha hreg
    refine writeReg_readOnly s v ?_
    cases r with
    | id => exact .inl rfl
    | errcode => exact .inr (.inl rfl)
    | cmd | status | irqEn | ptFlags => simp [MapOffset] at h
    | word x i =>
      cases x with
      | resX => exact .inr (.inr (.inl ⟨i, rfl⟩))
      | resY => exact .inr (.inr (.inr ⟨i, rfl⟩))
      | _ =>
        simp only [MapOffset] at h
        omega

/-- Acceptance chooses ENG by OP alone (10_state.md R39). -/
theorem engFor_eq (op : BitVec 4) :
    engFor op = if 1 ≤ op.toNat ∧ op.toNat ≤ 5 then .runField
      else if op.toNat = 9 ∨ op.toNat = 10 then .runPmul else .runPoint := by
  revert op
  decide

theorem setWord_setWord (x : Wide) (i : Fin 8) (v : Word) : setWord (setWord x i v) i v = setWord x i v := by
  refine wide_ext fun j => ?_
  by_cases h : i = j
  · rw [h, getWord_setWord_same, getWord_setWord_same]
  · rw [getWord_setWord_other _ _ _ _ h]

theorem hostSetWide_hostSetWide (s : State) (x : WideReg) (v : Wide) :
    hostSetWide (hostSetWide s v x) v x = hostSetWide s v x := by cases x <;> rfl

/-- A bit cleared where the written bit is 1 (10_state.md R33). -/
theorem and_not_eq_ite (a b : Bool) : (a && !b) = if b then false else a := by cases b <;> simp

theorem writeStatus_writeStatus (s : State) (v : Word) : writeStatus (writeStatus s v) v = writeStatus s v := by
  simp [writeStatus]

/-- Every write but a CMD write done twice is the write done once (20_memory.md R57). -/
theorem writeReg_writeReg (s : State) (v : Word) {r : Reg} (h : r ≠ .cmd) :
    writeReg (writeReg s v r) v r = writeReg s v r := by
  cases r with
  | id => rfl
  | cmd => exact absurd rfl h
  | status => exact writeStatus_writeStatus s v
  | errcode => rfl
  | irqEn => rfl
  | ptFlags => rfl
  | word x i =>
    by_cases hx : x = .resX
    · subst hx; rfl
    by_cases hy : x = .resY
    · subst hy; rfl
    simp only [writeReg, getWide_hostSetWide_same s _ hx hy, setWord_setWord, hostSetWide_hostSetWide]

/-- A word write read back word by word (10_state.md R24). -/
theorem getWord_writeWord (s : State) (x y : WideReg) (i j : Fin 8) (v : Word) (hx : x ≠ .resX) (hy : x ≠ .resY) :
    getWord (WideValue (writeReg s v (.word x i)) y) j =
      if y = x ∧ j = i then v else getWord (WideValue s y) j := by
  have hreg : (Reg.word y j = .word x i) ↔ y = x ∧ j = i := by simp
  have hread : ∀ t, getWord (WideValue t y) j = readReg t (.word y j) := fun t => by
    rw [readReg, getWide_eq_wideValue]
  rw [hread, hread]
  split
  · rename_i h
    rw [hreg.2 h, readReg_writeWord_same s v i hx hy]
  · rename_i h
    exact readReg_writeWord_other s v hx hy (mt hreg.1 h)

/-- The frame of a word write of an operand register, the answer recorded. -/
theorem pushAnswer_writeWord_frame (s : State) (x : WideReg) (i : Fin 8) (v : Word) :
    let t := pushAnswer (writeReg s v (.word x i)) .wrote
    t = { s with opa := t.opa, opb := t.opb, opc := t.opc, opd := t.opd, opk := t.opk,
                 answers := .wrote :: s.answers } := by
  cases x <;> rfl

theorem getLsbD_zero (v : Word) : v.getLsbD 0 = decide (v.toNat % 2 = 1) := Nat.testBit_zero ..

theorem getLsbD_one (v : Word) : v.getLsbD 1 = decide (v.toNat / 2 % 2 = 1) := by
  rw [BitVec.getLsbD, Nat.testBit_succ, Nat.testBit_zero]

/-- A number is the sum of its digits, each at its weight (20_memory.md R53). -/
theorem sum_digits (b x : Nat) : ∀ n, ∑ i ∈ Finset.range n, x / b ^ i % b * b ^ i = x % b ^ n
  | 0 => by simp [Nat.mod_one]
  | n + 1 => by rw [Finset.sum_range_succ, sum_digits b x n, Nat.mod_pow_succ, Nat.mul_comm]

end Sys2Proof.WindowRules

open Sys2Proof Sys2Proof.Machine Sys2Proof.Laws Sys2Proof.RegisterRules Sys2Proof.CommandWords Sys2Proof.CommandSteps
  Sys2Proof.Invariants Sys2Proof.WindowRules

/-- Settles O3 (30_encoding.md R78): acceptance does not look at the word, the engine's step does. -/
theorem illegalWordsCompleteWithIllegalCmd : Obligations.IllegalWordsCompleteWithIllegalCmd := by
  unfold Obligations.IllegalWordsCompleteWithIllegalCmd
  refine ⟨illegalWord_iff, fun s w hr hb hw => ?_⟩
  obtain ⟨why, hwhy⟩ := (illegalWord_iff w).1 hw
  refine ⟨pushAnswer (accept s w) .wrote, ?_, accept_busy s w, rfl, ?_,
    engineStep_illegal hr (accept_busy s w) hwhy⟩
  · exact (busAccess_wordWrite hr .cmd w).trans (by rw [writeReg_cmd_idle hb])
  · rw [pushAnswer_snap, accept_snap, splitWord_eq_ofNat]

/-- Settles O6 (60_exceptions.md R132). -/
theorem cmdWriteWhileIdleIsAccepted : Obligations.CmdWriteWhileIdleIsAccepted := by
  unfold Obligations.CmdWriteWhileIdleIsAccepted
  intro s w hr hb
  refine (busAccess_wordWrite hr .cmd w).trans ?_
  rw [writeReg_cmd_idle hb, accept, splitWord_eq_ofNat, engFor_eq, BitVec.toNat_ofNat]
  rfl

/-- Settles O7 (60_exceptions.md R133). -/
theorem cmdWriteWhileBusyOnlySetsOverrun : Obligations.CmdWriteWhileBusyOnlySetsOverrun := by
  unfold Obligations.CmdWriteWhileBusyOnlySetsOverrun
  intro s w hr hb
  refine (busAccess_wordWrite hr .cmd w).trans ?_
  rw [writeReg_cmd_busy hb]
  rfl

/-- Settles O31 (10_state.md R21; 20_memory.md R48). -/
theorem registerMapHasNoAliases : Obligations.RegisterMapHasNoAliases := by
  unfold Obligations.RegisterMapHasNoAliases
  refine ⟨offset_eq_mapOffset, fun r => ?_, fun off r ha h => ?_, fun off ha _ => regAt_eq_none_iff ha⟩
  · rw [offset_eq_mapOffset]
    exact ⟨regAt_mapOffset r, mapOffset_aligned r, mapOffset_lt r⟩
  · rw [offset_eq_mapOffset]
    exact eq_mapOffset_of_regAt ha h

/-- Settles O32 (20_memory.md R48, R51). -/
theorem readsReturnAndChangeNothing : Obligations.ReadsReturnAndChangeNothing := by
  unfold Obligations.ReadsReturnAndChangeNothing
  refine fun s d hr => ⟨fun r => ?_, fun off ha h => ?_⟩
  · rw [busAccess_wordRead hr, readReg_eq_readValue]
    rfl
  · have hnone : regAt off = none := (regAt_eq_none_iff ha).2 (h.imp_right And.left)
    rw [wordRead, busAccess_read s d hr (by omega) ha, readOff, hnone]
    rfl

/-- Settles O33 (10_state.md R33). -/
theorem statusWriteOnlyClears : Obligations.StatusWriteOnlyClears := by
  unfold Obligations.StatusWriteOnlyClears
  exact fun s v hr => ⟨_, busAccess_wordWrite hr .status v, rfl, and_not_eq_ite _ _, and_not_eq_ite _ _,
    and_not_eq_ite _ _⟩

/-- Settles O34 (10_state.md R24). -/
theorem operandWriteChangesOneWord : Obligations.OperandWriteChangesOneWord := by
  unfold Obligations.OperandWriteChangesOneWord
  intro s x i v hr hx hy
  refine ⟨_, busAccess_wordWrite hr (.word x i) v, fun y j => ?_, pushAnswer_writeWord_frame s x i v⟩
  have hpush : ∀ t : State, WideValue (pushAnswer t .wrote) y = WideValue t y := fun t => by cases y <;> rfl
  rw [hpush]
  exact getWord_writeWord s x y i j v hx hy

/-- Settles O35 (20_memory.md R48, R52). -/
theorem readOnlyAndReservedWritesAreIgnored : Obligations.ReadOnlyAndReservedWritesAreIgnored := by
  unfold Obligations.ReadOnlyAndReservedWritesAreIgnored
  intro s off v hr ha h
  rw [wordWrite, busAccess_write s v hr (by omega) ha, writeOff_ignored s v ha (by omega)]
  rfl

/-- Settles O36 (10_state.md R35, R36). -/
theorem enableAndFlagWrites : Obligations.EnableAndFlagWrites := by
  unfold Obligations.EnableAndFlagWrites
  refine fun s v hr => ⟨(busAccess_wordWrite hr .irqEn v).trans ?_, (busAccess_wordWrite hr .ptFlags v).trans ?_⟩
  · rw [writeReg, writeIrqEn, getLsbD_zero]
    rfl
  · rw [writeReg, writePtFlags, getLsbD_zero, getLsbD_one]
    rfl

/-- Settles O37 (20_memory.md R50). -/
theorem illegalTransactionsAreAnsweredError : Obligations.IllegalTransactionsAreAnsweredError := by
  unfold Obligations.IllegalTransactionsAreAnsweredError
  intro s off size write v hr ho h
  have hill : legalAccess size off = false := by
    unfold legalAccess
    obtain h | h := h <;> simp [h]
  rw [busAccess_in_window s size write v hr ho, windowAccess, hill]
  rfl

/-- Settles O38 (20_memory.md R46; 70_reset_and_hazards.md R154). -/
theorem accessesOutsideWindowOrInResetStop : Obligations.AccessesOutsideWindowOrInResetStop := by
  unfold Obligations.AccessesOutsideWindowOrInResetStop
  refine fun s t => ⟨fun hr => by rw [busAccess, if_pos hr], fun hr h => ?_⟩
  have hout : ¬ (s.baseAddr ≤ t.addr ∧ t.addr < s.baseAddr + Config.windowSize) := by
    simp only [State.baseAddr, Config.windowSize]
    omega
  rw [busAccess, if_neg (by simp [hr]), if_neg hout]

/-- Settles O39 (20_memory.md R53): the words are the digits to the base 2^32. -/
theorem registerIsTheSumOfItsWords : Obligations.RegisterIsTheSumOfItsWords := by
  unfold Obligations.RegisterIsTheSumOfItsWords
  intro x
  have hsum := sum_digits (2 ^ 32) x.toNat 8
  calc x.toNat
    _ = x.toNat % (2 ^ 32) ^ 8 := (Nat.mod_eq_of_lt x.isLt).symm
    _ = ∑ i : Fin 8, x.toNat / (2 ^ 32) ^ i.val % 2 ^ 32 * (2 ^ 32) ^ i.val := by
      rw [← hsum, Fin.sum_univ_eq_sum_range fun i => x.toNat / (2 ^ 32) ^ i % 2 ^ 32 * (2 ^ 32) ^ i]
    _ = ∑ i : Fin 8, (getWord x i).toNat * 2 ^ (32 * i.val) := by
      simp only [getWord_toNat, pow_mul]

/-- Settles O40 (20_memory.md R57). -/
theorem otherWritesAreIdempotent : Obligations.OtherWritesAreIdempotent := by
  unfold Obligations.OtherWritesAreIdempotent
  intro s off v ha hne
  cases hreg : regAt off with
  | none => rw [writeOff_reserved hreg, writeOff_reserved hreg]
  | some r =>
    have hcmd : r ≠ .cmd := fun hc => hne (by rw [eq_mapOffset_of_regAt ha hreg, hc]; rfl)
    rw [writeOff_of_regAt hreg, writeOff_of_regAt hreg, writeReg_writeReg s v hcmd]

/-- Settles O41 (60_exceptions.md R139). -/
theorem interruptFollowsDone : Obligations.InterruptFollowsDone := by
  unfold Obligations.InterruptFollowsDone
  refine ⟨fun s => by simp [State.irq], fun s t h hb hbt => ?_,
    fun s v hr hv => ⟨_, busAccess_wordWrite hr .status v, by simp [State.irq, writeReg, hv]⟩,
    fun s w hr hb => ⟨_, busAccess_wordWrite hr .cmd w, by simp [State.irq, writeReg_cmd_idle hb]⟩,
    fun s v hr hv => ⟨_, busAccess_wordWrite hr .irqEn v, congrArg (· && s.done) hv, rfl⟩⟩
  cases hr : s.inReset with
  | true =>
    rw [engineStep_still (.inl hr)] at h
    cases h
    exact absurd (hb.symm.trans hbt) (by decide)
  | false =>
    obtain ⟨pm, rfl⟩ | ⟨_, _, _, _, rfl⟩ | ⟨_, _, rfl⟩ := (engineStep_move hb hr h).outcome
    · exact absurd (hb.symm.trans hbt) (by decide)
    · exact Bool.and_true _
    · exact Bool.and_true _

/-- Settles O42 (60_exceptions.md R141): neither access touches what the engine reads, and a completion sets DONE and
leaves CMD, OVR and the snapshot. -/
theorem hostAccessBeforeCompletion : Obligations.HostAccessBeforeCompletion := by
  unfold Obligations.HostAccessBeforeCompletion
  refine fun s v t t' hr hb => ⟨fun h he hbt => ?_, fun h he => ?_⟩
  · cases (busAccess_wordWrite hr .status v).symm.trans h
    obtain ⟨pm, rfl⟩ | ⟨_, _, _, _, rfl⟩ | ⟨_, _, rfl⟩ :=
      (engineStep_move (s := pushAnswer (writeReg s v .status) .wrote) hb hr he).outcome
    · exact absurd (hb.symm.trans hbt) (by decide)
    · rfl
    · rfl
  · have hwrite := (busAccess_wordWrite hr .cmd v).symm.trans h
    rw [writeReg_cmd_busy hb] at hwrite
    cases hwrite
    obtain ⟨pm, rfl⟩ | ⟨_, _, _, _, rfl⟩ | ⟨_, _, rfl⟩ :=
      (engineStep_move (s := pushAnswer (overrun s) .wrote) hb hr he).outcome <;> exact ⟨rfl, rfl, rfl⟩

end

section
/-! Reset (70_reset_and_hazards.md R151 to R166) and the host program (30_encoding.md R85, R86): what holds at reset and
while it is asserted, each statement as one legal access, the temporaries, and the eight writes of `wr256`. -/

namespace Sys2Proof.HostRules

open Sys2Proof.Machine Sys2Proof.Laws Sys2Proof.RegisterRules Sys2Proof.CommandSteps Sys2Proof.Invariants
  Sys2Proof.WindowRules

/-! ## Reset -/

/-- The reset input, the schedule and the host program lie outside the registers of R151. -/
theorem registersReset_outside {s : State} (h : RegistersReset s) (r : Bool) (ts : List Turn) (hs : HostState) :
    RegistersReset { s with inReset := r, turns := ts, host := hs } :=
  ⟨h.cmd, h.done, h.err, h.rinf, h.oncurve, h.ovr, h.errcode, h.doneIe, h.inf1, h.inf2, h.wide, h.eng, h.irq, h.busy,
    h.id⟩

/-- In reset the host makes no access, so its statement changes only the host (70_reset_and_hazards.md R154). -/
theorem hostStep_inReset {s t : State} (hr : s.inReset = true) (h : hostStep s = .next t) :
    ∃ hs, t = { s with host := hs } := by
  obtain hh | ⟨a, s₁, hs, hb, _⟩ := hostStep_next h
  · exact hh
  · exact absurd (hr.symm.trans (busAccess_next hb).1) (by decide)

/-- Every step from a state in reset whose registers have their reset values. -/
theorem step_inReset {s t : State} (hr : s.inReset = true) (h : RegistersReset s) (hstep : step s = .next t) :
    RegistersReset t ∧ (t.inReset = true ∨ s.turns = .resetRelease :: t.turns) := by
  cases hturns : s.turns with
  | nil =>
    rw [step_of_nil hturns, defaultStep, if_pos hr] at hstep
    cases hstep
    exact ⟨h, .inl hr⟩
  | cons turn rest =>
    rw [step_of_cons hturns] at hstep
    cases turn with
    | engine =>
      have hstill := (engineStep_still (s := setTurns s rest) (.inl hr)).symm.trans hstep
      cases hstill
      exact ⟨registersReset_outside h s.inReset rest s.host, .inl hr⟩
    | host =>
      obtain ⟨hs, rfl⟩ := hostStep_inReset (s := setTurns s rest) hr hstep
      exact ⟨registersReset_outside h s.inReset rest hs, .inl hr⟩
    | bus a => exact absurd (hr.symm.trans (busAccess_next hstep).1) (by decide)
    | resetAssert =>
      cases hstep
      exact ⟨registersReset_resetBlock _ _, .inl rfl⟩
    | resetRelease =>
      cases hstep
      exact ⟨registersReset_outside h false rest s.host, .inr rfl⟩

theorem statusInv_reset : StatusInv State.reset :=
  { statusInv_resetBlock State.reset with resetIdle := fun _ => rfl }

theorem readValue_reset (r : Reg) : ReadValue State.reset r = if r = .id then 0x534B3101 else 0 := by
  cases r with
  | word x i => cases x <;> simp [ReadValue, WideValue, State.reset]
  | _ => rfl

/-! ## The statements of the host program -/

theorem hostStep_of_stmt {s : State} {stmt : HostStmt} (h : s.host.prog[s.host.pc]? = some stmt) :
    hostStep s = hostStmt s stmt := by simp only [hostStep, h]

/-- `wr` is one legal write and then the next statement (30_encoding.md R85). -/
theorem hostStmt_wr {s t : State} {r : Reg} {v : HostArg}
    (h : busAccess (wordWrite s (MapOffset r) (argValue s.host v)) s = .next t) :
    hostStmt s (.wr r v) = .next { t with host := { s.host with pc := s.host.pc + 1 } } := by
  have hacc : writeAccess s r (argValue s.host v) = wordWrite s (MapOffset r) (argValue s.host v) := by
    rw [writeAccess, offset_eq_mapOffset, wordWrite]
  simp only [hostStmt, hacc, h, goTo, busAccess_host h]

/-- `rd` is one legal read, its value going to the temporary, and then the next statement (30_encoding.md R85). -/
theorem hostStmt_rd {s : State} (hr : s.inReset = false) (r : Reg) (n : Nat) :
    hostStmt s (.rd r n) = .next
      { pushAnswer s (.read (readReg s r)) with
        host := { s.host with pc := s.host.pc + 1, temps := tempSet s.host.temps n (readReg s r) } } := by
  have hacc : busAccess (readAccess s r) s = .next (pushAnswer s (.read (readReg s r))) := by
    rw [readAccess, offset_eq_mapOffset]
    exact busAccess_wordRead hr r 0
  simp only [hostStmt, hacc]
  rfl

theorem engineStep_host {s t : State} (h : engineStep s = .next t) : t.host = s.host := by
  obtain ⟨_, rfl⟩ | ⟨hr, hb, _⟩ := engineStep_cases h
  · rfl
  · obtain ⟨pm, rfl⟩ | ⟨_, _, _, _, rfl⟩ | ⟨_, _, rfl⟩ := (engineStep_move hb hr h).outcome <;> rfl

/-- A step leaves the temporaries, or sets one of them. -/
theorem step_temps {s t : State} (h : step s = .next t) :
    t.host.temps = s.host.temps ∨ ∃ n v, t.host.temps = tempSet s.host.temps n v := by
  obtain ⟨ts, rfl | h | h | ⟨a, h⟩ | rfl | rfl⟩ := step_cases h
  · exact .inl rfl
  · exact .inl (congrArg HostState.temps (engineStep_host (s := setTurns s ts) h))
  · exact hostStep_temps (s := setTurns s ts) h
  · exact .inl (congrArg HostState.temps (busAccess_host (s := setTurns s ts) h))
  · exact .inl rfl
  · exact .inl rfl

/-! ## A run of word writes (30_encoding.md R86) -/

theorem run_succ {s t : State} (h : step s = .next t) (n : Nat) :
    Host.Core.run Sys2Proof.core (n + 1) s = Host.Core.run Sys2Proof.core n t := by
  have hcore : Sys2Proof.core.step s = .next t := h
  simp only [Host.Core.run, hcore]

/-- The state after the host's turn at a `wr` of word `i` of `x`, the schedule `ts` being left. -/
def wroteWord (s : State) (ts : List Turn) (x : WideReg) (i : Fin 8) (w : Word) : State :=
  { pushAnswer (writeReg (setTurns s ts) w (.word x i)) .wrote with host := { s.host with pc := s.host.pc + 1 } }

theorem step_wr_word {s : State} {x : WideReg} {i : Fin 8} {w : Word} {ts : List Turn} (hr : s.inReset = false)
    (hstmt : s.host.prog[s.host.pc]? = some (.wr (.word x i) (.imm w))) (hts : s.turns = .host :: ts) :
    step s = .next (wroteWord s ts x i w) := by
  have hacc := busAccess_wordWrite (s := setTurns s ts) hr (.word x i) w
  rw [step_of_cons hts]
  exact (hostStep_of_stmt (s := setTurns s ts) hstmt).trans (hostStmt_wr (v := .imm w) hacc)

theorem getWord_wroteWord (s : State) (ts : List Turn) {x : WideReg} (y : WideReg) (i j : Fin 8) (w : Word)
    (hx : x ≠ .resX) (hy : x ≠ .resY) :
    getWord (WideValue (wroteWord s ts x i w) y) j = if y = x ∧ j = i then w else getWord (WideValue s y) j := by
  have hout : WideValue (wroteWord s ts x i w) y = WideValue (writeReg (setTurns s ts) w (.word x i)) y := by
    cases y <;> rfl
  rw [hout, getWord_writeWord _ _ _ _ _ _ hx hy]
  rfl

/-- The statement at the host's place, and the statements after it. -/
theorem stmt_of_drop {prog rest : List HostStmt} {pc : Nat} {stmt : HostStmt} (h : prog.drop pc = stmt :: rest) :
    prog[pc]? = some stmt ∧ prog.drop (pc + 1) = rest := by
  constructor
  · rw [← Nat.add_zero pc, ← List.getElem?_drop, h]
    rfl
  · rw [← List.drop_drop, h]
    rfl

/-- The `wr` statements of the words `l` of `v`. -/
def wordWrites (x : WideReg) (v : Wide) (l : List (Fin 8)) : List HostStmt :=
  l.map fun i => .wr (.word x i) (.imm (getWord v i))

/-- Writes of the words `l` of `v`, run one after another, change those words of that register only. -/
theorem run_wordWrites {x : WideReg} (hx : x ≠ .resX) (hy : x ≠ .resY) (v : Wide) (rest : List HostStmt) :
    ∀ (l : List (Fin 8)) (s : State), s.inReset = false → s.host.prog.drop s.host.pc = wordWrites x v l ++ rest →
      s.turns = List.replicate l.length .host →
      ∃ t, Host.Core.run Sys2Proof.core l.length s = .next t ∧
        (∀ y j, getWord (WideValue t y) j = if y = x ∧ j ∈ l then getWord v j else getWord (WideValue s y) j) ∧
        t.host.prog.drop t.host.pc = rest ∧ t.turns = [] := by
  intro l
  induction l with
  | nil => exact fun s _ hd hts => ⟨s, rfl, fun y j => by simp, hd, hts⟩
  | cons i l ih =>
    intro s hr hd hts
    obtain ⟨hstmt, hnext⟩ := stmt_of_drop hd
    have hstep := step_wr_word hr hstmt hts
    obtain ⟨t, hrun, hwords, hpc, hturns⟩ :=
      ih (wroteWord s (List.replicate l.length .host) x i (getWord v i)) (by simpa [wroteWord, writeReg] using hr)
        hnext (by simp [wroteWord, writeReg])
    refine ⟨t, (run_succ hstep _).trans hrun, fun y j => ?_, hpc, hturns⟩
    rw [hwords, getWord_wroteWord s _ y i j _ hx hy]
    by_cases hl : y = x ∧ j ∈ l
    · rw [if_pos hl, if_pos ⟨hl.1, List.mem_cons_of_mem i hl.2⟩]
    · rw [if_neg hl]
      by_cases hi : y = x ∧ j = i
      · rw [if_pos hi, if_pos ⟨hi.1, hi.2 ▸ List.mem_cons_self⟩, hi.2]
      · have hnot : ¬ (y = x ∧ j ∈ i :: l) := fun ⟨hyx, hmem⟩ =>
          (List.mem_cons.1 hmem).elim (fun h => hi ⟨hyx, h⟩) fun h => hl ⟨hyx, h⟩
        rw [if_neg hi, if_neg hnot]

theorem mem_wordOrder : ∀ i : Fin 8, i ∈ wordOrder := by decide

end Sys2Proof.HostRules

open Sys2Proof Sys2Proof.Machine Sys2Proof.Laws Sys2Proof.RegisterRules Sys2Proof.CommandSteps Sys2Proof.Invariants
  Sys2Proof.WindowRules Sys2Proof.HostRules

/-- Settles O43 (70_reset_and_hazards.md R151, R152). -/
theorem resetGivesEveryRegisterItsResetValue : Obligations.ResetGivesEveryRegisterItsResetValue := by
  unfold Obligations.ResetGivesEveryRegisterItsResetValue
  exact ⟨fun s rest h => ⟨_, step_of_cons h, rfl, rfl, registersReset_resetBlock _ _⟩,
    fun s rest _ hreg h => ⟨_, step_of_cons h, rfl, rfl, registersReset_outside hreg false rest s.host⟩,
    fun s t hr hreg h => step_inReset hr hreg h⟩

/-- Settles O44 (10_state.md R21; 70_reset_and_hazards.md R166). -/
theorem resetStateHasTheResetValues : Obligations.ResetStateHasTheResetValues := by
  unfold Obligations.ResetStateHasTheResetValues
  exact ⟨readValue_reset, rfl, rfl, ⟨rfl, rfl, rfl⟩⟩

/-- Settles O45: at reset ENG is IDLE, so the invariants about a command in progress hold of nothing. -/
theorem invariantsHoldAtReset : Obligations.InvariantsHoldAtReset := by
  unfold Obligations.InvariantsHoldAtReset
  exact ⟨statusInv_reset, scalarInv_of_not_busy rfl, curveInv_of_not_busy rfl, rfl⟩

/-- Settles O55 (30_encoding.md R85), statement by statement. -/
theorem hostStatementsRun : Obligations.HostStatementsRun := by
  unfold Obligations.HostStatementsRun
  intro s stmt hstmt hr
  rw [hostStep_of_stmt hstmt]
  cases stmt with
  | wr r v =>
    cases v with
    | imm x => exact ⟨_, busAccess_wordWrite hr r x, hostStmt_wr (v := .imm x) (busAccess_wordWrite hr r x)⟩
    | temp m => exact ⟨_, busAccess_wordWrite hr r _, hostStmt_wr (v := .temp m) (busAccess_wordWrite hr r _)⟩
  | rd r n =>
    have hval := readReg_eq_readValue s r
    refine ⟨_, _, busAccess_wordRead hr r 0, hostStmt_rd hr r n, by rw [hval],
      fun hwf => ⟨tempSet_wf n _ hwf, fun m => ?_⟩⟩
    rw [tempGet_tempSet hwf, hval]
  | bnz n mask l =>
    rw [hostStmt, ite_not]
    rfl
  | bz n mask l => rfl
  | b l => rfl
  | halt => exact ⟨rfl, by simp only [hostHalted, hstmt]⟩

/-- Settles O56 (70_reset_and_hazards.md R165). -/
theorem finishedRunStays : Obligations.FinishedRunStays := by
  unfold Obligations.FinishedRunStays
  refine fun s => ⟨fun hover hts => ?_, fun hb hover => ?_⟩
  · obtain ⟨hhalt, hidle⟩ := hover
    have hhost : hostStep s = .next s := by
      unfold hostHalted at hhalt
      split at hhalt
      · rename_i h
        simp only [hostStep, h]
      · rename_i h
        exact hostStep_of_stmt h
      · cases hhalt
    have hb : s.busy = false := by rw [State.busy, hidle]; rfl
    rw [step_of_nil hts, defaultStep, hhost, hb]
    split <;> rfl
  · rw [State.busy, hover.idle] at hb
    cases hb

/-- Settles O57 (30_encoding.md R86): the eight words of `wr256`, which are all the words of the register. -/
theorem wr256LoadsTheRegister : Obligations.Wr256LoadsTheRegister := by
  unfold Obligations.Wr256LoadsTheRegister
  intro s x v rest hx hy hr hd hts
  obtain ⟨t, hrun, hwords, hpc, hturns⟩ := run_wordWrites hx hy v rest wordOrder s hr hd hts
  refine ⟨t, hrun, wide_ext fun j => ?_, fun y hyx => wide_ext fun j => ?_, hpc, hturns⟩
  · rw [hwords, if_pos ⟨rfl, mem_wordOrder j⟩]
  · rw [hwords, if_neg fun h => hyx h.1]

/-- Settles O58: a step sets at most one temporary, and setting one keeps the canonical form. -/
theorem stepKeepsTemporariesCanonical : Obligations.StepKeepsTemporariesCanonical := by
  unfold Obligations.StepKeepsTemporariesCanonical
  intro s t hwf h
  obtain heq | ⟨n, v, heq⟩ := step_temps h <;> rw [heq]
  · exact hwf
  · exact tempSet_wf n v hwf

end

section
/-! Scalar multiplication (42_scalar_mult.md R117 to R127): the bits the engine scans, the double-and-add as a multiple in
the curve's group, and the engine's run, one step for each doubling and each addition. -/

namespace Sys2Proof.ScalarRun

open Sys2Proof.Machine Sys2Proof.Laws Sys2Proof.Config Sys2Proof.CurveRules Sys2Proof.CommandSteps
  Sys2Proof.PointCommands Sys2Proof.Invariants

/-! ## The bits of the scalar (00_scope.md R11; 42_scalar_mult.md R118) -/

/-- The bits below bit `j`, the highest first. -/
def bitsBelow (k : Wide) (j : Nat) : List Bool := (List.range j).reverse.map fun i => k.getLsbD i

theorem scannedBits_eq (k : Wide) : scannedBits k = bitsBelow k (bitlen k - 1) := rfl

theorem bitsBelow_succ (k : Wide) (j : Nat) : bitsBelow k (j + 1) = k.getLsbD j :: bitsBelow k j := by
  simp [bitsBelow, List.range_succ]

@[simp] theorem length_bitsBelow (k : Wide) (j : Nat) : (bitsBelow k j).length = j := by simp [bitsBelow]

theorem bit_eq_digit (k : Wide) (j : Nat) : bit (k.getLsbD j) = k.toNat / 2 ^ j % 2 := by
  rw [BitVec.getLsbD, Nat.testBit_eq_decide_div_mod_eq]
  by_cases h : k.toNat / 2 ^ j % 2 = 1
  · simp [h]
  · simp [show k.toNat / 2 ^ j % 2 = 0 by omega]

/-- The top bit of a scalar weighs 2^(bitlen - 1), and the others are below it. -/
theorem toNat_eq_top_add {k : Wide} (h : 0 < bitlen k) :
    k.toNat = 2 ^ (bitlen k - 1) + k.toNat % 2 ^ (bitlen k - 1) := by
  have hlow : 2 ^ (bitlen k - 1) ≤ k.toNat := Nat.lt_size.1 (bitlen_eq_size k ▸ Nat.sub_one_lt_of_lt h)
  have hhigh : k.toNat < 2 ^ (bitlen k - 1 + 1) := by
    rw [Nat.sub_add_cancel h, bitlen_eq_size]
    exact Nat.lt_size_self _
  rw [pow_succ] at hhigh
  rw [Nat.mod_eq_sub_mod hlow, Nat.mod_eq_of_lt (by omega)]
  omega

theorem getLsbD_top {k : Wide} (h : 0 < bitlen k) : k.getLsbD (bitlen k - 1) = true := by
  have hdiv : k.toNat / 2 ^ (bitlen k - 1) = 1 := by
    rw [toNat_eq_top_add h, Nat.add_div_left _ (Nat.two_pow_pos _), Nat.div_eq_of_lt (Nat.mod_lt _ (Nat.two_pow_pos _))]
  have hbit := bit_eq_digit k (bitlen k - 1)
  rw [hdiv] at hbit
  by_contra hc
  simp [hc] at hbit

theorem getLsbD_of_bitlen_le {k : Wide} {i : Nat} (h : bitlen k ≤ i) : k.getLsbD i = false := by
  rw [bitlen_eq_size, Nat.size_le] at h
  exact Nat.testBit_lt_two_pow h

/-- The number of one bits among the lowest `j`. -/
def onesBelow (k : Wide) (j : Nat) : Nat := ((List.range j).filter fun i => k.getLsbD i).length

theorem onesBelow_succ (k : Wide) (j : Nat) : onesBelow k (j + 1) = onesBelow k j + bit (k.getLsbD j) := by
  cases h : k.getLsbD j <;> simp [onesBelow, List.range_succ, List.filter_append, h]

theorem onesBelow_of_bitlen_le (k : Wide) {j : Nat} (h : bitlen k ≤ j) : onesBelow k j = onesBelow k (bitlen k) := by
  induction j, h using Nat.le_induction with
  | base => rfl
  | succ j hj ih => rw [onesBelow_succ, ih, getLsbD_of_bitlen_le hj]; rfl

/-- The top bit is a one bit that is not scanned. -/
theorem popcount_eq {k : Wide} (h : 0 < bitlen k) : popcount k = onesBelow k (bitlen k - 1) + 1 := by
  have hsucc := onesBelow_succ k (bitlen k - 1)
  rw [Nat.sub_add_cancel h, getLsbD_top h] at hsucc
  exact (onesBelow_of_bitlen_le k (bitlen_le k)).trans hsucc

/-! ## The double-and-add is the group multiple (42_scalar_mult.md R126) -/

section
variable [Fact (Nat.Prime P)]

theorem scanBit_pointOf (g : secp256k1.Point) (m : Nat) (b : Bool) :
    scanBit (pointOf g) (pointOf (m • g)) b = pointOf ((2 * m + bit b) • g) := by
  cases b with
  | false =>
    rw [scanBit, if_neg (by decide), dbl_pointOf, ← add_nsmul]
    congr 2
    exact (Nat.two_mul m).symm
  | true =>
    rw [scanBit, if_pos rfl, dbl_pointOf, add_pointOf, ← add_nsmul, ← succ_nsmul]
    congr 2
    exact congrArg (· + 1) (Nat.two_mul m).symm

/-- Scanning the lowest `j` bits takes `m·g` to the multiple with these bits put after those of `m`. -/
theorem foldl_scanBit_pointOf (k : Wide) (g : secp256k1.Point) (j m : Nat) :
    (bitsBelow k j).foldl (scanBit (pointOf g)) (pointOf (m • g)) =
      pointOf ((m * 2 ^ j + k.toNat % 2 ^ j) • g) := by
  induction j generalizing m with
  | zero => simp [bitsBelow, Nat.mod_one]
  | succ j ih =>
    rw [bitsBelow_succ, List.foldl_cons, scanBit_pointOf, ih, bit_eq_digit, Nat.mod_pow_succ]
    congr 2
    ring

theorem doubleAndAdd_pointOf {k : Wide} (g : secp256k1.Point) (h : 0 < bitlen k) :
    doubleAndAdd k (pointOf g) = pointOf (k.toNat • g) := by
  have hscan := foldl_scanBit_pointOf k g (bitlen k - 1) 1
  rw [one_nsmul, Nat.one_mul, ← toNat_eq_top_add h] at hscan
  exact hscan

end

theorem doubleAndAdd_valid {k : Wide} {base : Point} (h : 0 < bitlen k) (hb : base.valid = true) :
    (doubleAndAdd k base).valid = true := by
  have := fact_prime_P
  obtain ⟨g, rfl⟩ := (valid_iff_exists_pointOf base).1 hb
  rw [doubleAndAdd_pointOf g h]
  exact (valid_iff_exists_pointOf _).2 ⟨_, rfl⟩

/-- N·G is INF: the order of G divides N (00_scope.md R5), by running the model's double-and-add. -/
theorem doubleAndAdd_N_basePoint : doubleAndAdd (wide N) basePoint = .inf := by decide +kernel

/-- No multiple of G below N is INF, N being prime (42_scalar_mult.md R127). -/
theorem doubleAndAdd_basePoint_ne_inf {k : Wide} (hk : scalarOk k = true) : doubleAndAdd k basePoint ≠ .inf := by
  have := fact_prime_P
  have hN := Fact.mk N_prime
  obtain ⟨g, hg⟩ := (valid_iff_exists_pointOf basePoint).1 basePoint_valid
  have hinf : ∀ a : secp256k1.Point, pointOf a = .inf → a = 0 := fun a ha => by
    rcases a with _ | ⟨x, y, h⟩
    · rfl
    · cases ha
  have hNg : N • g = 0 := hinf _ (by
    have hrun := doubleAndAdd_N_basePoint
    rw [hg, doubleAndAdd_pointOf g (by decide +kernel), toNat_wide N_lt] at hrun
    exact hrun)
  have hg0 : g ≠ 0 := by
    rintro rfl
    cases hg
  obtain ⟨h1, hlt⟩ := (scalarOk_iff k).1 hk
  intro hc
  rw [hg, doubleAndAdd_pointOf g (bitlen_pos hk)] at hc
  have hdvd := addOrderOf_dvd_of_nsmul_eq_zero (hinf _ hc)
  rw [addOrderOf_eq_prime hNg hg0] at hdvd
  exact absurd (Nat.le_of_dvd h1 hdvd) (by omega)

/-! ## The engine's run -/

/-- `t` is reached from `s` in `n` engine steps, a command being in progress all along. -/
inductive BusyRun : Nat → State → State → Prop
  | refl {s : State} : s.busy = true → BusyRun 0 s s
  | step {n : Nat} {s u t : State} : s.busy = true → engineStep s = .next u → BusyRun n u t → BusyRun (n + 1) s t

theorem engineRun_succ {s u : State} (h : engineStep s = .next u) (n : Nat) : engineRun (n + 1) s = engineRun n u := by
  simp only [engineRun, h]

theorem BusyRun.then_step {n : Nat} {s t u : State} (h : BusyRun n s t) (hu : engineStep t = .next u) :
    engineRun (n + 1) s = .next u := by
  induction h with
  | refl _ => exact engineRun_succ hu 0
  | step _ hs _ ih => exact (engineRun_succ hs _).trans (ih hu)

theorem BusyRun.busy {n : Nat} {s t : State} (h : BusyRun n s t) :
    ∀ m ≤ n, ∃ u, engineRun m s = .next u ∧ u.busy = true := by
  induction h with
  | refl hb =>
    intro m hm
    obtain rfl : m = 0 := by omega
    exact ⟨_, rfl, hb⟩
  | step hb hs _ ih =>
    intro m hm
    cases m with
    | zero => exact ⟨_, rfl, hb⟩
    | succ m =>
      rw [engineRun_succ hs]
      exact ih m (by omega)

/-- The scalar engine before the doubling for bit `j - 1`, or before the finish when `j` is 0. -/
def scanState (s : State) (base acc : Point) (j : Nat) : State :=
  { s with pm := { acc := PointReg.ofPoint acc, base := PointReg.ofPoint base, idx := BitVec.ofNat 9 j - 1,
                   phase := .dbl, started := true } }

/-- The scalar engine before the addition for bit `j`. -/
def addState (s : State) (base acc : Point) (j : Nat) : State :=
  { s with pm := { acc := PointReg.ofPoint acc, base := PointReg.ofPoint base, idx := BitVec.ofNat 9 j,
                   phase := .add, started := true } }

/-- The number of engine steps that scan the lowest `j` bits: a doubling each, an addition for each one bit. -/
def scanSteps (k : Wide) (j : Nat) : Nat := j + onesBelow k j

theorem ofNat_succ_sub_one (j : Nat) : BitVec.ofNat 9 (j + 1) - 1 = BitVec.ofNat 9 j := by
  rw [BitVec.ofNat_add]
  exact BitVec.add_sub_cancel _ _

theorem toNat_idx {j : Nat} (h : j ≤ 255) : (BitVec.ofNat 9 j).toNat = j := by
  rw [BitVec.toNat_ofNat, Nat.mod_eq_of_lt (by omega)]

theorem idx_ne_over {j : Nat} (h : j ≤ 255) : BitVec.ofNat 9 j ≠ idxOver := fun hc => by
  have hn := congrArg BitVec.toNat hc
  rw [toNat_idx h] at hn
  have h511 : idxOver.toNat = 511 := rfl
  omega

section
variable {s : State} {base acc : Point} {j : Nat}

theorem pmStep_scan_zero (hacc : acc.rangeOk = true) (hj : j ≤ 255) (hbit : s.snap.k.getLsbD j = false) :
    pmStep (scanState s base acc (j + 1)) = scanState s base (dbl acc) j := by
  have hidx : (scanState s base acc (j + 1)).pm.idx = BitVec.ofNat 9 j := ofNat_succ_sub_one j
  rw [pmStep_double (by rw [hidx]; exact idx_ne_over hj) rfl, pmDouble_zero (by rw [hidx, toNat_idx hj]; exact hbit),
    hidx, scanState, point_ofPoint hacc]
  rfl

theorem pmStep_scan_one (hacc : acc.rangeOk = true) (hj : j ≤ 255) (hbit : s.snap.k.getLsbD j = true) :
    pmStep (scanState s base acc (j + 1)) = addState s base (dbl acc) j := by
  have hidx : (scanState s base acc (j + 1)).pm.idx = BitVec.ofNat 9 j := ofNat_succ_sub_one j
  rw [pmStep_double (by rw [hidx]; exact idx_ne_over hj) rfl, pmDouble_one (by rw [hidx, toNat_idx hj]; exact hbit),
    scanState, point_ofPoint hacc, ofNat_succ_sub_one]
  rfl

theorem pmStep_add (hacc : acc.rangeOk = true) (hbase : base.rangeOk = true) (hj : j ≤ 255) :
    pmStep (addState s base acc j) = scanState s base (add acc base) j := by
  rw [PointCommands.pmStep_add (idx_ne_over hj) rfl, pmAdd, addState, point_ofPoint hacc, point_ofPoint hbase]
  rfl

variable {i : Instr} (hi : IsScalar i) (hrun : Running s i)

include hi hrun in
/-- Once PM_INIT is done, an engine step is `pmStep`. -/
theorem engineStep_started {pm : PmRegs} (hst : pm.started = true) :
    engineStep { s with pm := pm } = .next (pmStep { s with pm := pm }) := by
  have hrun' : Running { s with pm := pm } i := ⟨hrun.released, hrun.busy, hrun.command⟩
  exact (engineStep_running hrun').trans (exec_scalar_started hi hst)

include hi hrun in
/-- The scan of the lowest `j` bits. -/
theorem scan_run (hbase : base.valid = true) : ∀ (j : Nat) (acc : Point), j ≤ 255 → acc.valid = true →
    BusyRun (scanSteps s.snap.k j) (scanState s base acc j)
      (scanState s base ((bitsBelow s.snap.k j).foldl (scanBit base) acc) 0) := by
  intro j
  induction j with
  | zero => exact fun acc _ _ => .refl hrun.busy
  | succ j ih =>
    intro acc hj hacc
    have hdbl := dbl_valid hacc
    have hsteps : scanSteps s.snap.k (j + 1) = scanSteps s.snap.k j + bit (s.snap.k.getLsbD j) + 1 := by
      rw [scanSteps, onesBelow_succ, scanSteps]
      omega
    rw [hsteps, bitsBelow_succ, List.foldl_cons]
    cases hbit : s.snap.k.getLsbD j with
    | false =>
      refine .step hrun.busy ((engineStep_started hi hrun rfl).trans (congrArg _ (pmStep_scan_zero
        (rangeOk_of_valid hacc) (by omega) hbit))) ?_
      exact ih (dbl acc) (by omega) hdbl
    | true =>
      refine .step hrun.busy ((engineStep_started hi hrun rfl).trans (congrArg _ (pmStep_scan_one
        (rangeOk_of_valid hacc) (by omega) hbit))) ?_
      refine .step hrun.busy ((engineStep_started hi hrun rfl).trans (congrArg _ (pmStep_add
        (rangeOk_of_valid hdbl) (rangeOk_of_valid hbase) (by omega)))) ?_
      exact ih (add (dbl acc) base) (by omega) (add_valid hdbl hbase)

end

theorem firstIdx_eq {k : Wide} (h : 0 < bitlen k) : firstIdx k = BitVec.ofNat 9 (bitlen k - 1) - 1 := by
  obtain ⟨n, hn⟩ := Nat.exists_eq_add_of_lt h
  have hone : (2 : BitVec 9) = 1 + 1 := rfl
  rw [firstIdx, hn, hone, ← BitVec.sub_sub, Nat.zero_add, ofNat_succ_sub_one, Nat.add_sub_cancel]

theorem pmInit_eq_scanState (s : State) (base : Point) (h : 0 < bitlen s.snap.k) :
    pmInit s base = scanState s base base (bitlen s.snap.k - 1) := by
  rw [pmInit, firstIdx_eq h]
  rfl

/-- The run of a scalar command whose first step is PM_INIT (42_scalar_mult.md R123): in progress until the scan is done,
and then completed with the double-and-add. -/
theorem scalar_run {s : State} {i : Instr} {base : Point} (hi : IsScalar i) (hrun : Running s i)
    (hk : scalarOk s.snap.k = true) (hbase : base.valid = true) (hinit : exec i s = .next (pmInit s base)) :
    (∀ n, n < bitlen s.snap.k + popcount s.snap.k → ∃ t, engineRun n s = .next t ∧ t.busy = true) ∧
      ∃ pm, engineRun (bitlen s.snap.k + popcount s.snap.k) s =
        .next (completePoint { s with pm := pm } (doubleAndAdd s.snap.k base)) := by
  have hpos := bitlen_pos hk
  have hle := bitlen_le s.snap.k
  have hvalid := doubleAndAdd_valid hpos hbase
  have hcount : bitlen s.snap.k + popcount s.snap.k = scanSteps s.snap.k (bitlen s.snap.k - 1) + 1 + 1 := by
    rw [popcount_eq hpos, scanSteps]
    omega
  have hfirst : engineStep s = .next (scanState s base base (bitlen s.snap.k - 1)) := by
    rw [engineStep_running hrun, hinit, pmInit_eq_scanState s base hpos]
  have hscan := BusyRun.step hrun.busy hfirst (scan_run hi hrun hbase _ base (by omega) hbase)
  have hfinish : engineStep (scanState s base (doubleAndAdd s.snap.k base) 0) =
      .next (completePoint (scanState s base (doubleAndAdd s.snap.k base) 0) (doubleAndAdd s.snap.k base)) := by
    refine (engineStep_started hi hrun rfl).trans (congrArg _ ?_)
    exact (pmStep_finish rfl).trans (congrArg _ (point_ofPoint (rangeOk_of_valid hvalid)))
  rw [hcount]
  exact ⟨fun n hn => hscan.busy n (by omega), _, hscan.then_step hfinish⟩

/-- The first step of a scalar command whose checks pass is PM_INIT with its base point (42_scalar_mult.md R119). -/
theorem exec_first {s : State} {i : Instr} (hi : IsScalar i) (hst : s.pm.started = false)
    (hk : scalarOk s.snap.k = true) (hb : (scalarBase s.snap i).valid = true) :
    exec i s = .next (pmInit s (scalarBase s.snap i)) := by
  obtain rfl | rfl := hi
  · rw [exec_pmul_first hst, pmStart_of_scalar _ _ hk]
    exact withPoints_of_valid (List.forall_mem_singleton.2 hb)
  · rw [exec_pmulg_first hst, pmStart_of_scalar _ _ hk]
    exact withPoints_of_valid (by simp)

/-- The number of steps of any scalar is at most 512 (42_scalar_mult.md R123). -/
theorem steps_le (k : Wide) : bitlen k + popcount k ≤ 512 := by
  have hle := bitlen_le k
  have hpop : popcount k ≤ 256 := (List.length_filter_le _ _).trans_eq List.length_range
  omega

/-- A step of a command that completes it at once. -/
theorem completes_in_one {s t : State} (h : engineStep s = .next t) (hb : t.busy = false) (hd : t.done = true) :
    ∃ n t, n ≤ 512 ∧ engineRun n s = .next t ∧ t.busy = false ∧ t.done = true :=
  ⟨1, t, by decide, engineRun_succ h 0, hb, hd⟩

theorem completePoint_done (s : State) (q : Point) : (completePoint s q).done = true := by
  rw [completePoint_eq]
  rfl

/-- A command at its first step is completed within 512 engine steps (60_exceptions.md R131). -/
theorem completes_of_running {s : State} {i : Instr} (hrun : Running s i) (hst : s.pm.started = false) :
    ∃ n t, n ≤ 512 ∧ engineRun n s = .next t ∧ t.busy = false ∧ t.done = true := by
  obtain ⟨t, hexec⟩ := exec_answers i s
  have hstep := (engineStep_running hrun).trans hexec
  cases exec_inv hexec with
  | field m c _ _ _ => exact completes_in_one hstep rfl rfl
  | checked v => exact completes_in_one hstep rfl rfl
  | doubled _ => exact completes_in_one hstep (completePoint_busy _ _) (completePoint_done _ _)
  | added _ _ => exact completes_in_one hstep (completePoint_busy _ _) (completePoint_done _ _)
  | error code _ => exact completes_in_one hstep rfl rfl
  | start base hi _ hk hbase =>
    obtain ⟨_, pm, hend⟩ := scalar_run hi hrun hk hbase hexec
    exact ⟨_, _, steps_le s.snap.k, hend, completePoint_busy _ _, completePoint_done _ _⟩
  | double _ hc _ _ => exact absurd (hst.symm.trans hc) (by decide)
  | add _ hc _ _ => exact absurd (hst.symm.trans hc) (by decide)
  | finish _ hc _ => exact absurd (hst.symm.trans hc) (by decide)

end Sys2Proof.ScalarRun

open Sys2Proof Sys2Proof.Machine Sys2Proof.Laws Sys2Proof.CurveRules Sys2Proof.CommandSteps Sys2Proof.Invariants
  Sys2Proof.ScalarRun

/-- Settles O27 (42_scalar_mult.md R123 to R125). -/
theorem scalarMultiplicationRunsItsCountedSteps : Obligations.ScalarMultiplicationRunsItsCountedSteps := by
  unfold Obligations.ScalarMultiplicationRunsItsCountedSteps
  intro s i hi hrun hst hk hb
  obtain ⟨hbusy, pm, hend⟩ := scalar_run hi hrun hk hb (exec_first hi hst hk hb)
  refine ⟨hbusy, pm, hend.trans ?_⟩
  cases doubleAndAdd s.snap.k (scalarBase s.snap i) <;> rfl

/-- Settles O28 (42_scalar_mult.md R126). -/
theorem doubleAndAddIsTheGroupMultiple : Obligations.DoubleAndAddIsTheGroupMultiple := by
  unfold Obligations.DoubleAndAddIsTheGroupMultiple
  intro _ k g hk
  exact doubleAndAdd_pointOf g (bitlen_pos hk)

/-- Settles O29 (42_scalar_mult.md R125, R127): the order of G is the prime N. -/
theorem generatorMultipleIsNeverInfinity : Obligations.GeneratorMultipleIsNeverInfinity := by
  unfold Obligations.GeneratorMultipleIsNeverInfinity
  intro s hrun hst hk
  obtain ⟨_, pm, hend⟩ := scalar_run (.inr rfl) hrun hk basePoint_valid (exec_first (.inr rfl) hst hk basePoint_valid)
  have hvalid := doubleAndAdd_valid (bitlen_pos hk) basePoint_valid
  cases hq : doubleAndAdd s.snap.k basePoint with
  | inf => exact absurd hq (doubleAndAdd_basePoint_ne_inf hk)
  | aff x y =>
    rw [hq] at hend hvalid
    obtain ⟨hx, hy, hon⟩ := (valid_aff_iff x y).1 hvalid
    exact ⟨pm, x, y, hx, hy, hon, hend⟩

/-- Settles O30 (60_exceptions.md R131): an illegal word is completed by the first engine step. -/
theorem everyAcceptedCommandCompletes : Obligations.EveryAcceptedCommandCompletes := by
  unfold Obligations.EveryAcceptedCommandCompletes
  intro s w hr _
  cases hw : decodeWord w with
  | command i => exact completes_of_running (i := i) ⟨hr, accept_busy s w, hw⟩ rfl
  | illegal why => exact completes_in_one (engineStep_illegal hr (accept_busy s w) hw) rfl rfl

end
